-- ==== Sys2Proof/Word.lean ====
section
/-! DEFINITION. The word types of the block (spec/00_scope.md R8, R12; spec/30_encoding.md R72, R74). -/

namespace Sys2Proof

/-- The stimulus word `STIM` = `{rst, query, tick, ir}` at a rising edge of `clk` (R72). -/
abbrev Stim := BitVec 4

/-- The extended word `PHASE_STIM` = `{phase[1:0], stim[3:0]}` (R74): a way of writing
"`TICK` while `phase` is `pp`", not a second input word. -/
abbrev PhaseStim := BitVec 6

/-- A captured code word, `codeAccumulator` and `codeBuffer` (R24, R25, R77). -/
abbrev CodeWord := BitVec 16

/-- `repeatTimer`, 16 bits unsigned (R8, R28). -/
abbrev RepeatTimer := BitVec 16

/-- `tickCounter`, 8 bits unsigned (R8, R29). -/
abbrev TickCounter := BitVec 8

/-- `bitIndex`, 8 bits signed two's complement (R8, R30). -/
abbrev BitIndex := BitVec 8

/-- A word of one of the two formats of the opcode table. -/
inductive InWord where
  | stim (w : Stim)
  | phaseStim (w : PhaseStim)
  deriving DecidableEq, Repr

end Sys2Proof
end

