-- ==== Sys2Proof/Config.lean ====
section
/-! DEFINITION. What an implementation fixes (spec/00_scope.md R7, R9) and the values the spec leaves
free. The values of the parameters stand in Machine/Parameters.lean; POWER_ON_STATE (R9, R181) stands in
Machine/State.lean, beside the type of the record it is a value of. -/

namespace Sys2Proof.Config

/-- The named parameters of R7 and R9. Every shared operation takes this record, so the machine can be
re-run with other values (R3, R7). -/
structure Params where
  /-- `BIT_COUNT`: bits captured per code, reset and reload value of `bitIndex`. -/
  bitCount : Nat
  /-- `DELAY_THRESHOLD`, in ticks: Delaying leaves when `tickCounter` exceeds it (R103). -/
  delayThreshold : Nat
  /-- `TIMEOUT_THRESHOLD`, in ticks: Waiting aborts when `tickCounter` exceeds it (R109). -/
  timeoutThreshold : Nat
  /-- `REPEAT_CEILING`, in ticks: saturation value of `repeatTimer` (R116). -/
  repeatCeiling : Nat
  /-- `CONTROL_MASK`: AND-mask applied to `codeBuffer` on delivery (R79, R141). -/
  controlMask : CodeWord
  /-- `TICK_PERIOD`, in microseconds: an obligation of the environment, read by no rule (R7). -/
  tickPeriodMicros : Nat
  /-- `QUERY_ATOMIC`: true for the hardware; read by the software accessor's machine only (R9, R145). -/
  queryAtomic : Bool
  deriving DecidableEq, Repr

/-- The word the environment holds at the input ports at clock edge `n` when nothing was placed there:
any value, under no law (R11, U6). Log 1, DESIGN CHOICE, safe. -/
opaque freeStim : Nat → Stim

/-- The 16-bit value of `1 << n` where `n` is not a position of a 16-bit word (R13 and R80 state the
value for positions only). Only states that no run reaches ask for it. Log 5, DESIGN CHOICE, safe. -/
opaque bitOutOfRange : BitIndex → CodeWord

/-- `bitIndex` after the decrement of its most negative value, for which the spec gives no result
(R118; N3 and N5 forbid assuming a wrap). Only states that no run reaches ask for it. Log 6, DESIGN
CHOICE, safe. -/
opaque bitIndexUnderflow : BitIndex

end Sys2Proof.Config
end

