-- ==== Sys2Proof/Syntax.lean ====
section
/-! DEFINITION. The operations of the block, one constructor per row of spec/opcode_table.json, and the
phases that select the arms of `TICK` (spec/00_scope.md R10, spec/30_encoding.md R72, R74). -/

namespace Sys2Proof

/-- The current FSM phase (R21). There is no fifth phase (R82). -/
inductive Phase where
  | standby
  | delaying
  | waiting
  | repeatCheck
  deriving DecidableEq, Repr, Inhabited

/-- The operations. The level operand `l` is `stim[0]`, a Boolean with no extension or scaling (R80). -/
inductive Instr where
  /-- `INIT`, `stim = 1xxx` (R150). -/
  | init
  /-- `NOP`, `stim = 000x` (R151). -/
  | nop
  /-- `TICK(l)`, `stim = 001l` (R100). -/
  | tick (l : Bool)
  /-- `TICK.Standby`: `TICK(l)` while `phase` is Standby (R102). -/
  | tickStandby (l : Bool)
  /-- `TICK.Delaying`: `TICK(l)` while `phase` is Delaying (R103). -/
  | tickDelaying (l : Bool)
  /-- `TICK.Waiting`: `TICK(l)` while `phase` is Waiting (R106). -/
  | tickWaiting (l : Bool)
  /-- `TICK.RepeatCheck`: `TICK(l)` while `phase` is RepeatCheck (R111). -/
  | tickRepeatCheck (l : Bool)
  /-- `QUERY`, `stim = 010x` (R140). -/
  | query
  /-- `QUERY+TICK(l)`, `stim = 011l` (R152). -/
  | queryTick (l : Bool)
  deriving DecidableEq, Repr

/-- The sub-operation of `TICK(l)` that a phase selects (R74). -/
def Instr.armOf (ph : Phase) (l : Bool) : Instr :=
  match ph with
  | .standby => .tickStandby l
  | .delaying => .tickDelaying l
  | .waiting => .tickWaiting l
  | .repeatCheck => .tickRepeatCheck l

end Sys2Proof
end

