-- ==== Sys2Proof/WellFormed.lean ====
section
/-! DEFINITION. Well-formedness: of an operation against the phase it is written for (R74), of the words
of the two formats (R72, R74), of the parameters (R7, R8), and of a run (R181, R184). -/

namespace Sys2Proof

/-- Can the operation be presented at an edge at which the `phase` register holds `ph`? The five
operations of R72 always can (R81); the four arms only while `phase` is theirs (R74). -/
def Instr.wellFormedIn (ph : Phase) : Instr → Bool
  | .init => true
  | .nop => true
  | .tick _ => true
  | .tickStandby _ => ph == .standby
  | .tickDelaying _ => ph == .delaying
  | .tickWaiting _ => ph == .waiting
  | .tickRepeatCheck _ => ph == .repeatCheck
  | .query => true
  | .queryTick _ => true

/-- Every `STIM` word selects an operation (R72); a `PHASE_STIM` word names a row only as `pp001l` (R74). -/
def InWord.wellFormed : InWord → Bool
  | .stim _ => true
  | .phaseStim w => w &&& 0b001110 == 0b000010

/-- Parameter values the widths of R8 can hold: a bit position for every captured bit, counters that
reach their thresholds without leaving their registers, and the timeout "smaller than the delay
threshold" (R7). -/
def Config.Params.wellFormed (p : Config.Params) : Bool :=
  decide (1 ≤ p.bitCount) && decide (p.bitCount ≤ 16) && decide (p.delayThreshold < 255) &&
    decide (p.timeoutThreshold < p.delayThreshold) && decide (p.repeatCeiling < 65536)

/-- The run performs no `TICK` and no `QUERY` before its first `INIT` (R181, R184). -/
def initBeforeUse : List Instr → Bool
  | [] => true
  | .init :: _ => true
  | .nop :: rest => initBeforeUse rest
  | .tick _ :: _ => false
  | .tickStandby _ :: _ => false
  | .tickDelaying _ :: _ => false
  | .tickWaiting _ :: _ => false
  | .tickRepeatCheck _ :: _ => false
  | .query :: _ => false
  | .queryTick _ :: _ => false

end Sys2Proof
end

