-- ==== Sys2Proof/Decode.lean ====
section
/-! DEFINITION. The decoder of both word formats, and after it the encoder (spec/30_encoding.md R72 to
R74, R83 for the don't-care bits). -/

namespace Sys2Proof

/-- Why a word names no operation. -/
inductive DecodeError where
  /-- A `PHASE_STIM` word whose low four bits are not `001l`: no row of the table (R74). -/
  | notATickArm (w : PhaseStim)
  deriving DecidableEq, Repr

/-- `stim[3] = rst`, `stim[2] = query`, `stim[1] = tick`, `stim[0] = ir` (R72). -/
def stimOfPorts (rst query tick ir : Bool) : Stim :=
  BitVec.ofBool rst ++ BitVec.ofBool query ++ BitVec.ofBool tick ++ BitVec.ofBool ir

/-- The level operand `l = stim[0]` (R80). -/
def levelOf (w : Stim) : Bool := w.getLsbD 0

/-- The two-bit code of `phase` (R74). -/
def phaseBits : Phase → BitVec 2
  | .standby => 0b00
  | .delaying => 0b01
  | .waiting => 0b10
  | .repeatCheck => 0b11

/-- The phase of a two-bit code; all four values are legal (R74). -/
def phaseOfBits (b : BitVec 2) : Phase :=
  if b = 0b00 then .standby
  else if b = 0b01 then .delaying
  else if b = 0b10 then .waiting
  else .repeatCheck

/-- R72's table, its rows checked in its order; all sixteen words select an operation. -/
def decodeStim (w : Stim) : Instr :=
  if w &&& 0b1000 = 0b1000 then .init
  else if w &&& 0b1110 = 0b0000 then .nop
  else if w &&& 0b1110 = 0b0010 then .tick (levelOf w)
  else if w &&& 0b1110 = 0b0100 then .query
  else .queryTick (levelOf w)

/-- The four rows of format `PHASE_STIM` (R74); every other word is rejected by name. -/
def decodePhaseStim (w : PhaseStim) : Except DecodeError Instr :=
  if w &&& 0b111110 = 0b000010 then .ok (.tickStandby (w.getLsbD 0))
  else if w &&& 0b111110 = 0b010010 then .ok (.tickDelaying (w.getLsbD 0))
  else if w &&& 0b111110 = 0b100010 then .ok (.tickWaiting (w.getLsbD 0))
  else if w &&& 0b111110 = 0b110010 then .ok (.tickRepeatCheck (w.getLsbD 0))
  else .error (.notATickArm w)

/-- The decoder, total on the words of both formats. -/
def decode : InWord → Except DecodeError Instr
  | .stim w => .ok (decodeStim w)
  | .phaseStim w => decodePhaseStim w

/-- The `PHASE_STIM` word `{pp, 001l}` (R74). -/
def armWord (ph : Phase) (l : Bool) : PhaseStim :=
  phaseBits ph ++ stimOfPorts false false true l

/-- The canonical word of an operation: don't-care bits are 0 (R83). -/
def encode : Instr → InWord
  | .init => .stim (stimOfPorts true false false false)
  | .nop => .stim (stimOfPorts false false false false)
  | .tick l => .stim (stimOfPorts false false true l)
  | .tickStandby l => .phaseStim (armWord .standby l)
  | .tickDelaying l => .phaseStim (armWord .delaying l)
  | .tickWaiting l => .phaseStim (armWord .waiting l)
  | .tickRepeatCheck l => .phaseStim (armWord .repeatCheck l)
  | .query => .stim (stimOfPorts false true false false)
  | .queryTick l => .stim (stimOfPorts false true true l)

/-- A word with the bits its row ignores (`x` of R72) set to 0. -/
def canonical : InWord → InWord
  | .stim w =>
    .stim (if w.getLsbD 3 then 0b1000 else if w.getLsbD 1 then w else w &&& 0b1110)
  | .phaseStim w => .phaseStim w

/-- The word of one of the two formats that the opcode table's bits `w` stand for. Four bits are `STIM`
and six are `PHASE_STIM`; in a whole byte, values below 16 are read as `STIM` (the format of the input
ports) and values from 16 to 63 as `PHASE_STIM`. The byte of `TICK.Standby` is the byte of `TICK` and is
read as `TICK` (log 4). Bits that neither format has must be 0. -/
def tableWord (nbits w : Nat) : Option InWord :=
  if nbits = 6 then
    if w < 64 then some (.phaseStim (BitVec.ofNat 6 w)) else none
  else if w < 16 then some (.stim (BitVec.ofNat 4 w))
  else if nbits ≠ 4 ∧ w < 64 then some (.phaseStim (BitVec.ofNat 6 w))
  else none

/-- The instruction the decoder reads from the opcode table's bits `w`. -/
def decodeTableWord (nbits w : Nat) : Option Instr :=
  match tableWord nbits w with
  | none => none
  | some word =>
    match decode word with
    | .ok i => some i
    | .error _ => none

end Sys2Proof
end

