-- ==== Sys2Proof/Machine/Parameters.lean ====
section
/-! DEFINITION. The values of the named parameters (spec/00_scope.md R7, R9). -/

namespace Sys2Proof.Config

/-- R7's values, `CONTROL_MASK` by R79 and `QUERY_ATOMIC` by R9 (log 11). -/
def params : Params where
  bitCount := 13
  delayThreshold := 3
  timeoutThreshold := 2
  repeatCeiling := 500
  controlMask := 0x07FF
  tickPeriodMicros := 300
  queryAtomic := true

end Sys2Proof.Config
end

