-- ==== Sys2Proof/Machine/State.lean ====
section
/-! DEFINITION. The state: the ten fields of `DecoderState` (spec/10_state.md R20 to R30), the output
ports (R76), and the model's own fields for what stands outside the block. -/

namespace Sys2Proof.Machine

/-- Whether a repeat window is open and whether the last completed code matched (R27, R75). Three values
only: the reserved encoding `0b11` cannot be written down (R75, U3). -/
inductive RepeatState where
  | none
  | provisional
  | confirmed
  deriving DecidableEq, Repr, Inhabited

/-- The tri-state result of `QUERY` (R76, R140). `repeated` is the spec's `Repeat`. -/
inductive QueryResult where
  | noData
  | code (value : CodeWord)
  | repeated
  deriving DecidableEq, Repr, Inhabited

/-- The single state record of the block, exactly the ten fields of R21 to R30 (R20, R42). -/
structure DecoderState where
  /-- R21: selects the arm of `TICK`. -/
  phase : Phase
  /-- R22: the sample of `ir` taken by the current `TICK`. -/
  level : Bool
  /-- R23: the level recorded when Delaying hands over to Waiting. -/
  previousLevel : Bool
  /-- R24: bits being assembled for the capture in progress. -/
  codeAccumulator : CodeWord
  /-- R25: the last delivered code, unmasked. -/
  codeBuffer : CodeWord
  /-- R26: set by the deliver step, cleared by `QUERY`. -/
  newDataAvailable : Bool
  /-- R27. -/
  repeatState : RepeatState
  /-- R28: ticks since the last delivery or confirmation, saturating. -/
  repeatTimer : RepeatTimer
  /-- R29: ticks within a stay in Delaying or Waiting. -/
  tickCounter : TickCounter
  /-- R30: bits remaining to decode, signed. -/
  bitIndex : BitIndex
  deriving DecidableEq, Repr, Inhabited

/-- Faults: none. "No exceptions or fatal conditions exist in the core" (R160), so the type has no
constructor and nothing can raise one. Safe (log 14). -/
inductive Fault : Type
  deriving DecidableEq, Repr

/-- Why a step has no next state. -/
inductive Refusal where
  /-- Raised by `exec`'s arm of an instruction that has no meaning yet; no arm raises it. Safe. -/
  | notModelled (mnemonic : String)
  /-- Raised by every `TICK` and `QUERY` form before the first `INIT`: "it treats such a run as refused"
  (R181, U1). Safe (log 3). -/
  | beforeInit
  /-- Raised by an arm of `TICK` written for a phase that the `phase` register does not hold: that arm is
  not the one the edge selects (R74, R119). Safe (log 4). -/
  | armNotSelected
  deriving DecidableEq, Repr

/-- The block, its output ports, and what stands at its input ports. -/
structure State where
  /-- The state record of the block (R20). -/
  dec : DecoderState
  /-- What `res_kind` and `res_value` showed at the last edge (R76; log 8). -/
  result : QueryResult
  /-- An `INIT` has been performed since power-on (R181; the model's own field, log 3). -/
  initialised : Bool
  /-- The stimulus words placed at the input ports for the coming edges, the next edge's first
  (R70, R72; the model's own field, log 1). -/
  pending : List Stim
  /-- Clock edges passed, the argument of the free stimulus (the model's own field, log 1). -/
  edge : Nat
  deriving DecidableEq, Repr

/-- The ten fields after `INIT` (R43). -/
def DecoderState.reset : DecoderState where
  phase := .standby
  level := false
  previousLevel := false
  codeAccumulator := 0x0000
  codeBuffer := 0x0000
  newDataAvailable := false
  repeatState := .none
  repeatTimer := 0
  tickCounter := 0
  bitIndex := BitVec.ofNat 8 Config.params.bitCount

/-- The machine right after reset: an `INIT` has been performed (R43, R180), nothing is placed at the
input ports. -/
def State.reset : State where
  dec := DecoderState.reset
  result := .noData
  initialised := true
  pending := []
  edge := 0

/-- `POWER_ON_STATE`: the ten fields before the first `INIT`, unspecified and read by no rule (R9, R181;
log 3, DESIGN CHOICE, safe). -/
opaque powerOnFields : DecoderState

/-- The machine at power-on, before the first `INIT` (R181). -/
def State.powerOn : State where
  dec := powerOnFields
  result := .noData
  initialised := false
  pending := []
  edge := 0

end Sys2Proof.Machine
end

