-- ==== Sys2Proof/Machine/Operands.lean ====
section
/-! DEFINITION. Operand and field forms: the values assembled from pieces (R80), the code word's layout
(R77 to R79), the binary codes of `repeatState` and of the result ports (R75, R76). The level operand and
the code of `phase` stand in Decode.lean. -/

namespace Sys2Proof.Machine

open Sys2Proof.Config (Params)

/-- `1 << n` as a 16-bit value, with `n` read as the signed `bitIndex` (R13, R80). Where `n` is no
position of a 16-bit word the value is free (log 5). -/
def bitAt (n : BitIndex) : CodeWord :=
  if n.toNat < 16 then 1#16 <<< n.toNat else Config.bitOutOfRange n

/-- The delivered value `codeBuffer & CONTROL_MASK` (R79, R80). -/
def payload (p : Params) (w : CodeWord) : CodeWord := w &&& p.controlMask

/-- Bit 12 of a captured code, the second start bit S2 (R78). -/
def secondStartBit (w : CodeWord) : Bool := w.getLsbD 12

/-- Bit 11 of a captured code, the toggle bit T (R78). -/
def toggleBit (w : CodeWord) : Bool := w.getLsbD 11

/-- Bits 10 to 6 of a captured code, A4 to A0 (R78). -/
def addressField (w : CodeWord) : BitVec 5 := w.extractLsb' 6 5

/-- Bits 5 to 0 of a captured code, C5 to C0 (R78). -/
def commandField (w : CodeWord) : BitVec 6 := w.extractLsb' 0 6

/-- The two-bit code of `repeatState` (R75); `0b11` is never produced. -/
def repeatBits : RepeatState → BitVec 2
  | .none => 0b00
  | .provisional => 0b01
  | .confirmed => 0b10

/-- The port `res_kind` (R76); `0b11` is never driven. -/
def resKind : QueryResult → BitVec 2
  | .noData => 0b00
  | .code _ => 0b01
  | .repeated => 0b10

/-- The port `res_value`: the masked code of a `Code` result, else 0 (R76). -/
def resValue : QueryResult → BitVec 16
  | .noData => 0x0000
  | .code v => v
  | .repeated => 0x0000

end Sys2Proof.Machine
end

