-- ==== Sys2Proof/Machine/Flags.lean ====
section
/-! DEFINITION. The computations of the block's two flags, `newDataAvailable` and `repeatState` (R34):
the compare and deliver steps of the RepeatCheck arm, the post-step, and the clearing by `QUERY`. Inside
one operation a later write reads what an earlier one wrote (R13). -/

namespace Sys2Proof.Machine

open Sys2Proof.Config (Params)

/-- Compare step (R112): all 16 bits of the unmasked words, only while a window is open. -/
def compareStep (d : DecoderState) : DecoderState :=
  if d.repeatState = .none then d
  else if d.codeAccumulator = d.codeBuffer then { d with repeatTimer := 0, repeatState := .confirmed }
  else { d with repeatState := .none }

/-- Deliver step (R113): reads the `repeatState` that the compare step left. -/
def deliverStep (d : DecoderState) : DecoderState :=
  if d.repeatState = .none ∧ d.newDataAvailable = false then
    { d with
      codeBuffer := d.codeAccumulator
      repeatTimer := 0
      repeatState := .provisional
      newDataAvailable := true }
  else d

/-- Repeat-timer post-step (R116), last in every `TICK`. -/
def postStep (p : Params) (d : DecoderState) : DecoderState :=
  if d.repeatTimer.toNat < p.repeatCeiling then { d with repeatTimer := d.repeatTimer + 1 }
  else { d with repeatState := .none }

/-- The accessor's clearing of `newDataAvailable` (R26, R141). -/
def clearNewData (d : DecoderState) : DecoderState := { d with newDataAvailable := false }

end Sys2Proof.Machine
end

