-- ==== Sys2Proof/Machine/Ops.lean ====
section
/-! DEFINITION. The named operations over the state record that the meanings share. The block takes no
exception and returns from none (R160, R166, R167): the nearest thing, the abort of a capture, is the one
shared operation `abort`. -/

namespace Sys2Proof.Machine

open Sys2Proof.Config (Params)

/-- What one clock edge leaves: the record, and the result shown on the output ports (R76). -/
def State.afterEdge (s : State) (d : DecoderState) (r : QueryResult) : State :=
  { s with dec := d, result := r }

/-- A form of `TICK` or `QUERY` has no meaning before the first `INIT` (R181). -/
def afterInit (s : State) (k : Host.Outcome State Fault Refusal) : Host.Outcome State Fault Refusal :=
  if s.initialised then k else .refused .beforeInit

/-- Sample latch (R101): `ir` at the tick edge, first in every `TICK`. -/
def sample (l : Bool) (d : DecoderState) : DecoderState := { d with level := l }

/-- `BIT_COUNT` as a value of `bitIndex` (R30). -/
def bitCountIndex (p : Params) : BitIndex := BitVec.ofNat 8 p.bitCount

/-- `tickCounter + 1`, exact: the comparisons of R103 and R109 read this value (R118; log 7). -/
def nextTick (d : DecoderState) : Nat := d.tickCounter.toNat + 1

/-- `S.tickCounter <- S.tickCounter + 1` (R103, R108). -/
def countTick (d : DecoderState) : DecoderState :=
  { d with tickCounter := BitVec.ofNat 8 (nextTick d) }

/-- `bitIndex - 1` (R107, R118); from the most negative value the result is free (log 6). -/
def decrementIndex (n : BitIndex) : BitIndex :=
  if n = 0x80 then Config.bitIndexUnderflow else n - 1

/-- Waiting timeout, abort (R110): the sole recovery path from a malformed transmission. Nothing is saved
and no cause is recorded (R161, R166). -/
def abort (p : Params) (d : DecoderState) : DecoderState :=
  { d with
    tickCounter := 0
    codeAccumulator := 0
    bitIndex := bitCountIndex p
    phase := .standby }

end Sys2Proof.Machine
end

