-- ==== Sys2Proof/Machine/Tick.lean ====
section
/-! DEFINITION. The `TICK` operation and its four arms (spec/40_tick_fsm.md). -/

namespace Sys2Proof.Machine

open Sys2Proof.Config (Params)

/-- Standby arm (R102): tests the level, not an edge, and writes nothing but `phase`. -/
def standbyArm (d : DecoderState) : DecoderState :=
  if d.level then { d with phase := .delaying } else d

/-- Delaying exit to RepeatCheck (R104). -/
def exitToRepeatCheck (p : Params) (d : DecoderState) : DecoderState :=
  { d with bitIndex := bitCountIndex p, phase := .repeatCheck }

/-- Delaying exit to Waiting (R105): records this tick's sample. -/
def exitToWaiting (d : DecoderState) : DecoderState :=
  { d with previousLevel := d.level, phase := .waiting }

/-- Delaying arm (R103): increment first, then compare; `bitIndex < 1` is a signed comparison (R14). -/
def delayingArm (p : Params) (d : DecoderState) : DecoderState :=
  if p.delayThreshold < nextTick d then
    if d.bitIndex.toInt < 1 then exitToRepeatCheck p { d with tickCounter := 0 }
    else exitToWaiting { d with tickCounter := 0 }
  else countTick d

/-- Waiting, change branch (R107): the new `bitIndex` is the position written. -/
def changeBranch (d : DecoderState) : DecoderState :=
  { d with
    bitIndex := decrementIndex d.bitIndex
    codeAccumulator :=
      if d.level then d.codeAccumulator ||| bitAt (decrementIndex d.bitIndex) else d.codeAccumulator
    tickCounter := 0
    phase := .delaying }

/-- Waiting, no change (R108), with the timeout condition on the incremented counter (R109). -/
def noChangeBranch (p : Params) (d : DecoderState) : DecoderState :=
  if p.timeoutThreshold < nextTick d then abort p d else countTick d

/-- Waiting arm (R106): the change test comes first and wins. -/
def waitingArm (p : Params) (d : DecoderState) : DecoderState :=
  if d.level = d.previousLevel then noChangeBranch p d else changeBranch d

/-- RepeatCheck, finish step (R114). -/
def finishStep (d : DecoderState) : DecoderState :=
  { d with codeAccumulator := 0, phase := .standby }

/-- RepeatCheck arm (R111): compare, deliver, finish; the level is not read (R115). -/
def repeatCheckArm (d : DecoderState) : DecoderState :=
  finishStep (deliverStep (compareStep d))

/-- The arm a phase selects (R100). -/
def arm (p : Params) (ph : Phase) (d : DecoderState) : DecoderState :=
  match ph with
  | .standby => standbyArm d
  | .delaying => delayingArm p d
  | .waiting => waitingArm p d
  | .repeatCheck => repeatCheckArm d

/-- `TICK(l)` on the record (R100): sample, the one arm of the phase at entry (R119), post-step. -/
def tick (p : Params) (l : Bool) (d : DecoderState) : DecoderState :=
  postStep p (arm p d.phase (sample l d))

/-- A sub-operation of `TICK` runs when its phase is the one at entry (R74); the outputs show NoData,
since `query` is low (R76). -/
def runArm (ph : Phase) (f : DecoderState → DecoderState) (l : Bool) (s : State) :
    Host.Outcome State Fault Refusal :=
  afterInit s <|
    if s.dec.phase = ph then .next (s.afterEdge (postStep Config.params (f (sample l s.dec))) .noData)
    else .refused .armNotSelected

/-- `TICK(l)` (R100). -/
def execTick (l : Bool) (s : State) : Host.Outcome State Fault Refusal :=
  afterInit s (.next (s.afterEdge (tick Config.params l s.dec) .noData))

/-- `TICK.Standby` (R102). -/
def execTickStandby (l : Bool) (s : State) : Host.Outcome State Fault Refusal :=
  runArm .standby standbyArm l s

/-- `TICK.Delaying` (R103 to R105). -/
def execTickDelaying (l : Bool) (s : State) : Host.Outcome State Fault Refusal :=
  runArm .delaying (delayingArm Config.params) l s

/-- `TICK.Waiting` (R106 to R110). -/
def execTickWaiting (l : Bool) (s : State) : Host.Outcome State Fault Refusal :=
  runArm .waiting (waitingArm Config.params) l s

/-- `TICK.RepeatCheck` (R111 to R115). -/
def execTickRepeatCheck (l : Bool) (s : State) : Host.Outcome State Fault Refusal :=
  runArm .repeatCheck repeatCheckArm l s

end Sys2Proof.Machine
end

