-- ==== Sys2Proof/Machine/Query.lean ====
section
/-! DEFINITION. The `QUERY` operation (spec/41_query_accessor.md) and `QUERY+TICK`
(spec/42_init_nop_combined.md R152). -/

namespace Sys2Proof.Machine

open Sys2Proof.Config (Params)

/-- The result of a `QUERY` made on the record (R140): a pending code before a confirmed repeat before
no data. -/
def queryResult (p : Params) (d : DecoderState) : QueryResult :=
  if d.newDataAvailable then .code (payload p d.codeBuffer)
  else if d.repeatState = .confirmed then .repeated
  else .noData

/-- The record a `QUERY` leaves: it clears `newDataAvailable` where it was set, and touches nothing else
(R141 to R144). -/
def queryEffect (d : DecoderState) : DecoderState :=
  if d.newDataAvailable then clearNewData d else d

/-- `QUERY` (R140), atomic (R57). -/
def execQuery (s : State) : Host.Outcome State Fault Refusal :=
  afterInit s (.next (s.afterEdge (queryEffect s.dec) (queryResult Config.params s.dec)))

/-- `QUERY+TICK(l)` (R152): the result of the state before the edge, then the tick on what the query
left, as one atomic operation. -/
def execQueryTick (l : Bool) (s : State) : Host.Outcome State Fault Refusal :=
  afterInit s <|
    .next (s.afterEdge (tick Config.params l (queryEffect s.dec)) (queryResult Config.params s.dec))

end Sys2Proof.Machine
end

