-- ==== Sys2Proof/Machine/System.lean ====
section
/-! DEFINITION. The `INIT` and `NOP` operations (spec/42_init_nop_combined.md R150, R151). -/

namespace Sys2Proof.Machine

/-- The ten writes of `INIT` (R150). -/
def initFields (p : Config.Params) : DecoderState where
  phase := .standby
  level := false
  previousLevel := false
  codeAccumulator := 0x0000
  codeBuffer := 0x0000
  newDataAvailable := false
  repeatState := .none
  repeatTimer := 0
  tickCounter := 0
  bitIndex := bitCountIndex p

/-- `INIT` (R150, R180): from any state, and before the first `INIT` too; the outputs show NoData. -/
def execInit (s : State) : Host.Outcome State Fault Refusal :=
  .next { s.afterEdge (initFields Config.params) .noData with initialised := true }

/-- `NOP` (R151): no field of the record changes; the outputs show NoData. -/
def execNop (s : State) : Host.Outcome State Fault Refusal :=
  .next (s.afterEdge s.dec .noData)

end Sys2Proof.Machine
end

