-- ==== Sys2Proof/Machine/Dispatch.lean ====
section
/-! DEFINITION. One arm per operation, each one direct call of its meaning. -/

namespace Sys2Proof.Machine

def exec (i : Instr) (s : State) : Host.Outcome State Fault Refusal :=
  match i with
  | .init => Sys2Proof.Machine.execInit s
  | .nop => Sys2Proof.Machine.execNop s
  | .tick l => Sys2Proof.Machine.execTick l s
  | .tickStandby l => Sys2Proof.Machine.execTickStandby l s
  | .tickDelaying l => Sys2Proof.Machine.execTickDelaying l s
  | .tickWaiting l => Sys2Proof.Machine.execTickWaiting l s
  | .tickRepeatCheck l => Sys2Proof.Machine.execTickRepeatCheck l s
  | .query => Sys2Proof.Machine.execQuery s
  | .queryTick l => Sys2Proof.Machine.execQueryTick l s

end Sys2Proof.Machine
end

