-- ==== Sys2Proof/Machine/Fetch.lean ====
section
/-! DEFINITION. The stimulus word at a clock edge. The block fetches no instruction (R32): its operation
is whatever word stands at its input ports at the edge (R71, R72). -/

namespace Sys2Proof.Machine

/-- The word at the input ports at the coming edge: the one placed there, else any word (R11, U6;
log 1). -/
def stimulus (s : State) : Stim := s.pending.headD (Config.freeStim s.edge)

/-- The operation of the coming edge (R71). -/
def fetch (s : State) : Instr := decodeStim (stimulus s)

/-- The edge passes: the word that stood at the ports is gone. -/
def passEdge (s : State) : State :=
  { s with pending := s.pending.tail, edge := s.edge + 1 }

/-- Place a word of the opcode table at the ports of the next edge. A `PHASE_STIM` word means "`TICK`
while `phase` is `pp`" (R74), so it sets `phase` to `pp` and places its low four bits (log 4). -/
def placeWord (s : State) : InWord → State
  | .stim w => { s with pending := w :: s.pending }
  | .phaseStim w =>
    { s with
      dec := { s.dec with phase := phaseOfBits (w.extractLsb' 4 2) }
      pending := w.extractLsb' 0 4 :: s.pending }

/-- Place the opcode table's bits `w`; bits that no format of the table has place nothing. -/
def placeTableWord (s : State) (nbits w : Nat) : State :=
  match tableWord nbits w with
  | some word => placeWord s word
  | none => s

end Sys2Proof.Machine
end

