-- ==== Sys2Proof/Machine/Step.lean ====
section
/-! DEFINITION. One step is one rising edge of `clk` (R71): the operation the stimulus word selects, on
the state the edge found. -/

namespace Sys2Proof.Machine

/-- One clock edge (R71). -/
def step (s : State) : Host.Outcome State Fault Refusal :=
  exec (fetch s) (passEdge s)

/-- The state with the opcode table's bits `w` placed where `step` takes its next operation. -/
def State.withFetchWord (s : State) (nbits w : Nat) : State :=
  placeTableWord s nbits w

end Sys2Proof.Machine
end

