-- ==== Sys2Proof/Machine/Reference.lean ====
section
/-! DEFINITION. The reference listing of spec/40_tick_fsm.md section 11 over unbounded counters (R118 lets
a model use them): the same `TICK` written a second time, as one sequence of assignments. Statements
compare the machine with it; no meaning uses it. -/

namespace Sys2Proof.Machine

open Sys2Proof.Config (Params)

/-- The ten fields, the three counters unbounded (R118, U11). -/
structure WideState where
  phase : Phase
  level : Bool
  previousLevel : Bool
  codeAccumulator : CodeWord
  codeBuffer : CodeWord
  newDataAvailable : Bool
  repeatState : RepeatState
  repeatTimer : Nat
  tickCounter : Nat
  bitIndex : Int
  deriving DecidableEq, Repr

/-- The record with its counters read as numbers: two unsigned, one signed (R8). -/
def widen (d : DecoderState) : WideState where
  phase := d.phase
  level := d.level
  previousLevel := d.previousLevel
  codeAccumulator := d.codeAccumulator
  codeBuffer := d.codeBuffer
  newDataAvailable := d.newDataAvailable
  repeatState := d.repeatState
  repeatTimer := d.repeatTimer.toNat
  tickCounter := d.tickCounter.toNat
  bitIndex := d.bitIndex.toInt

/-- The listing's lines, in its order; each later line reads what an earlier one assigned (R13). -/
def wideTick (p : Params) (l : Bool) (s₀ : WideState) : WideState := Id.run do
  let mut s := s₀
  s := { s with level := l }
  match s₀.phase with
  | .standby =>
    if s.level = true then
      s := { s with phase := .delaying }
  | .delaying =>
    s := { s with tickCounter := s.tickCounter + 1 }
    if s.tickCounter > p.delayThreshold then
      s := { s with tickCounter := 0 }
      if s.bitIndex < 1 then
        s := { s with bitIndex := p.bitCount }
        s := { s with phase := .repeatCheck }
      else
        s := { s with previousLevel := s.level }
        s := { s with phase := .waiting }
  | .waiting =>
    if s.level ≠ s.previousLevel then
      s := { s with bitIndex := s.bitIndex - 1 }
      if s.level = true then
        s := { s with codeAccumulator := s.codeAccumulator ||| (1#16 <<< s.bitIndex.toNat) }
      s := { s with tickCounter := 0 }
      s := { s with phase := .delaying }
    else
      s := { s with tickCounter := s.tickCounter + 1 }
      if s.tickCounter > p.timeoutThreshold then
        s := { s with tickCounter := 0 }
        s := { s with codeAccumulator := 0 }
        s := { s with bitIndex := p.bitCount }
        s := { s with phase := .standby }
  | .repeatCheck =>
    if s.repeatState ≠ .none then
      if s.codeAccumulator = s.codeBuffer then
        s := { s with repeatTimer := 0 }
        s := { s with repeatState := .confirmed }
      else
        s := { s with repeatState := .none }
    if s.repeatState = .none ∧ s.newDataAvailable = false then
      s := { s with codeBuffer := s.codeAccumulator }
      s := { s with repeatTimer := 0 }
      s := { s with repeatState := .provisional }
      s := { s with newDataAvailable := true }
    s := { s with codeAccumulator := 0 }
    s := { s with phase := .standby }
  if s.repeatTimer < p.repeatCeiling then
    s := { s with repeatTimer := s.repeatTimer + 1 }
  else
    s := { s with repeatState := .none }
  return s

end Sys2Proof.Machine
end

