-- ==== Sys2Proof/Machine/Accessor.lean ====
section
/-! DEFINITION. The machine of the document's software (spec/41_query_accessor.md R145, R147) with all three
agents of R11: the consumer's accessor in micro-steps, the other agents' operations falling between them.
R145 replaces the query only, so `INIT`, `NOP` and `TICK` are those of the hardware, and every run of the
hardware is one of this machine (R57). With `QUERY_ATOMIC = true` a query is
one event, as in the hardware (R57). It is not the hardware of the spec; `step` does not use it (log 9). -/

namespace Sys2Proof.Machine

open Sys2Proof.Config (Params)

/-- The order of `q2` (clear the flag) and `q3` (read the buffer); a model admits both (R145). -/
inductive ReadOrder where
  | clearFirst
  | readFirst
  deriving DecidableEq, Repr

/-- Where the consumer's query stands, with the private state it carries (R42 (b), R145). -/
inductive Consumer where
  /-- No query in flight. -/
  | idle
  /-- After `q1`: the private bit `f`. -/
  | sawFlag (f : Bool)
  /-- After `q2`, before `q3`. -/
  | clearedFlag
  /-- After `q3`, before `q2`: the word read. -/
  | readBuffer (v : CodeWord)
  /-- The query has returned. -/
  | returned (r : QueryResult)
  deriving DecidableEq, Repr

/-- The record shared by the agents, of a block that has had its first `INIT` (R181), and the consumer's
private state. -/
structure Shared where
  block : DecoderState
  consumer : Consumer
  deriving DecidableEq, Repr

/-- What happens next: a whole `INIT` of the initialising environment, an edge without a strobe, a whole
`TICK` of the tick agent, or one micro-step of the consumer. The order is read only where `q2` and `q3` are
both possible. -/
inductive SharedEvent where
  | init
  | nop
  | tick (l : Bool)
  | micro (order : ReadOrder)
  deriving DecidableEq, Repr

/-- `q1`: read the flag. -/
def microQ1 (d : DecoderState) : Shared := ⟨d, .sawFlag d.newDataAvailable⟩

/-- `q4`: read `repeatState` and return. -/
def microQ4 (d : DecoderState) : Shared :=
  ⟨d, .returned (if d.repeatState = .confirmed then .repeated else .noData)⟩

/-- One micro-step of the consumer (R145); with `QUERY_ATOMIC` the whole query (R140). A consumer whose
query has returned starts the next one. -/
def microStep (p : Params) (order : ReadOrder) (s : Shared) : Shared :=
  if p.queryAtomic then ⟨queryEffect s.block, .returned (queryResult p s.block)⟩
  else
    match s.consumer with
    | .idle => microQ1 s.block
    | .returned _ => microQ1 s.block
    | .sawFlag true =>
      match order with
      | .clearFirst => ⟨clearNewData s.block, .clearedFlag⟩
      | .readFirst => ⟨s.block, .readBuffer s.block.codeBuffer⟩
    | .sawFlag false => microQ4 s.block
    | .clearedFlag => ⟨s.block, .returned (.code (payload p s.block.codeBuffer))⟩
    | .readBuffer v => ⟨clearNewData s.block, .returned (.code (payload p v))⟩

/-- One event; each `TICK` is atomic (R56, R145). `INIT` writes the ten fields of the block (R150) at any
point, a query in flight included; the consumer's private state is not the block's (R42 (b)) and stays
(log 9). -/
def sharedStep (p : Params) (s : Shared) : SharedEvent → Shared
  | .init => ⟨initFields p, s.consumer⟩
  | .nop => s
  | .tick l => ⟨tick p l s.block, s.consumer⟩
  | .micro order => microStep p order s

/-- A run of the agents. -/
def runShared (p : Params) (events : List SharedEvent) (s : Shared) : Shared :=
  events.foldl (sharedStep p) s

/-- The result the consumer receives at an event: that of a micro-step with which its query returns. -/
def eventAnswer (p : Params) (s : Shared) : SharedEvent → Option QueryResult
  | .init => none
  | .nop => none
  | .tick _ => none
  | .micro order =>
    match (microStep p order s).consumer with
    | .returned r => some r
    | .idle => none
    | .sawFlag _ => none
    | .clearedFlag => none
    | .readBuffer _ => none

/-- The results the consumer receives in a run, the first one first. -/
def sharedAnswers (p : Params) : List SharedEvent → Shared → List QueryResult
  | [], _ => []
  | e :: rest, s => (eventAnswer p s e).toList ++ sharedAnswers p rest (sharedStep p s e)

/-- The parameters with `QUERY_ATOMIC = false` (R9). -/
def softwareParams : Params := { Config.params with queryAtomic := false }

end Sys2Proof.Machine
end

