-- ==== Sys2Proof/Machine/Trace.lean ====
section
/-! DEFINITION. Runs of operations, and the trace notation with its macros (spec/30_encoding.md R83,
R84) as data (log 15). It has no hardware meaning; statements use it to name stimuli. -/

namespace Sys2Proof.Machine

/-- The operations performed one per clock edge, stopping at the first refusal (R58, R71). -/
def execAll : List Instr → State → Host.Outcome State Fault Refusal
  | [], s => .next s
  | i :: rest, s =>
    match exec i s with
    | .next t => execAll rest t
    | .fault r => .fault r
    | .refused r => .refused r

/-- The ticks of a level string on the record. -/
def ticks (p : Config.Params) (ls : List Bool) (d : DecoderState) : DecoderState :=
  ls.foldl (fun d l => tick p l d) d

/-- A level string as `TICK` operations (R83). -/
def tickOps (ls : List Bool) : List Instr := ls.map .tick

/-- `IDLE(n)`: `n` ticks at level 0 (R84). -/
def idleLevels (n : Nat) : List Bool := List.replicate n false

/-- `BIT6(b)`: three ticks at level `1 - b`, three at level `b` (R84). -/
def bit6Levels (b : Bool) : List Bool := List.replicate 3 (!b) ++ List.replicate 3 b

/-- The bits of a 13-bit word, `W[12]` first (R84). -/
def wordBits (w : BitVec 13) : List Bool := (List.range 13).map fun j => w.getLsbD (12 - j)

/-- `FRAME6(W)`: three ticks at 1, the thirteen bit cells from `W[12]` down, three ticks at 0 (R84). -/
def frame6Levels (w : BitVec 13) : List Bool :=
  List.replicate 3 true ++ (wordBits w).flatMap bit6Levels ++ List.replicate 3 false

/-- One item of a trace (R83): a token repeated `n` times (`tok*n`), a level string in quotes, or the
assertion of the result of a `Q`. -/
inductive TraceItem where
  | op (i : Instr) (n : Nat)
  | levels (ls : List Bool)
  | queryGives (r : QueryResult)
  deriving DecidableEq, Repr

/-- The operations of an item. -/
def TraceItem.ops : TraceItem → List Instr
  | .op i n => List.replicate n i
  | .levels ls => tickOps ls
  | .queryGives _ => [.query]

/-- Run a trace from a state: the state it ends in, or nothing where an operation is refused or an
asserted result is not the one returned. -/
def runTrace : List TraceItem → State → Option State
  | [], s => some s
  | item :: rest, s =>
    match execAll item.ops s with
    | .next t =>
      match item with
      | .queryGives r => if t.result = r then runTrace rest t else none
      | .op _ _ => runTrace rest t
      | .levels _ => runTrace rest t
    | .fault _ => none
    | .refused _ => none

/-- The words a trace holds at the input ports, one per edge, don't-care bits 0 (R83). -/
def traceWords (items : List TraceItem) : List InWord :=
  (items.flatMap TraceItem.ops).map encode

end Sys2Proof.Machine
end

