-- ==== Sys2Proof/Safety.lean ====
section
/-! DEFINITION. What the claims say of a state and of a run: the invariants of spec/10_state.md section 5
(for the parameter values of R7, see U10), and the terms in which statements about runs are written. -/

namespace Sys2Proof

/-- The operation neither resets the block nor reads the result: it leaves an unread code unread. -/
def Instr.leavesCodeUnread : Instr → Bool
  | .init => false
  | .nop => true
  | .tick _ => true
  | .tickStandby _ => true
  | .tickDelaying _ => true
  | .tickWaiting _ => true
  | .tickRepeatCheck _ => true
  | .query => false
  | .queryTick _ => false

/-- The operation performs a `QUERY` (its `query` strobe is high and `rst` is low, R76). -/
def Instr.performsQuery : Instr → Bool
  | .init => false
  | .nop => false
  | .tick _ => false
  | .tickStandby _ => false
  | .tickDelaying _ => false
  | .tickWaiting _ => false
  | .tickRepeatCheck _ => false
  | .query => true
  | .queryTick _ => true

/-- The operation performs a `TICK`. -/
def Instr.performsTick : Instr → Bool
  | .init => false
  | .nop => false
  | .tick _ => true
  | .tickStandby _ => true
  | .tickDelaying _ => true
  | .tickWaiting _ => true
  | .tickRepeatCheck _ => true
  | .query => false
  | .queryTick _ => true

end Sys2Proof

namespace Sys2Proof.Machine

/-- The invariants of R35 to R39. -/
structure DecoderState.Inv (d : DecoderState) : Prop where
  /-- R35: `bitIndex` is in `[0, BIT_COUNT]` (so its signed and unsigned readings agree). -/
  index_range : d.bitIndex.toNat ≤ 13
  /-- R37: `repeatTimer` is in `[0, REPEAT_CEILING]`. -/
  timer_range : d.repeatTimer.toNat ≤ 500
  /-- R38: bits 15 to 13 of `codeAccumulator` are 0. -/
  accumulator_range : d.codeAccumulator.toNat < 8192
  /-- R38: bits 15 to 13 of `codeBuffer` are 0. -/
  buffer_range : d.codeBuffer.toNat < 8192
  /-- R36, R38, R39 in Standby. -/
  standby : d.phase = .standby → d.tickCounter = 0 ∧ d.bitIndex = 13 ∧ d.codeAccumulator = 0
  /-- R36, R39 in Delaying: the positions below `bitIndex` have not been written. -/
  delaying : d.phase = .delaying →
    d.tickCounter.toNat ≤ 3 ∧ (d.bitIndex = 13 → d.codeAccumulator = 0) ∧
      ∀ n < d.bitIndex.toNat, d.codeAccumulator.getLsbD n = false
  /-- R36, R39 in Waiting: at least one bit is still to be captured. -/
  waiting : d.phase = .waiting →
    d.tickCounter.toNat ≤ 2 ∧ 1 ≤ d.bitIndex.toNat ∧
      ∀ n < d.bitIndex.toNat, d.codeAccumulator.getLsbD n = false
  /-- R36, R39 in RepeatCheck. -/
  repeatCheck : d.phase = .repeatCheck → d.tickCounter = 0 ∧ d.bitIndex = 13

/-- The state invariant: nothing is claimed of the record before the first `INIT` (R181). -/
def State.Inv (s : State) : Prop := s.initialised = true → s.dec.Inv

/-- The next state of an outcome, where there is one. -/
def nextState (o : Host.Outcome State Fault Refusal) : Option State :=
  match o with
  | .next t => some t
  | .fault _ => none
  | .refused _ => none

/-- The results the consumer receives in a run of the block: those the ports show at the edges that perform
a `QUERY` (R76). -/
def queryAnswers : List Instr → State → List QueryResult
  | [], _ => []
  | i :: rest, s =>
    match exec i s with
    | .next t => (if i.performsQuery then [t.result] else []) ++ queryAnswers rest t
    | .fault _ => []
    | .refused _ => []

/-- Why an outcome is a refusal, where it is one. -/
def refusalOf (o : Host.Outcome State Fault Refusal) : Option Refusal :=
  match o with
  | .next _ => none
  | .fault _ => none
  | .refused r => some r

end Sys2Proof.Machine
end

