-- ==== Sys2Proof/Certificates/Slice0/Obligations.lean ====
section
/-! DEFINITION. The statements for the provers. A docstring names the rule of spec/ a statement
formalises; where a statement rests on a choice of the model, it names the log entry. -/

namespace Sys2Proof.Claims

open Sys2Proof.Machine

/-- `repeatTimer` after the post-step, as R116 words it with its ceiling of 500. -/
def timerAfter (d : DecoderState) : RepeatTimer :=
  if d.repeatTimer.toNat < 500 then d.repeatTimer + 1 else d.repeatTimer

/-- `repeatState` after the post-step, as R116 words it. -/
def windowAfter (d : DecoderState) : RepeatState :=
  if d.repeatTimer.toNat < 500 then d.repeatState else .none

/-- A record after the post-step: no other field moves (R116). -/
def ticked (d : DecoderState) : DecoderState :=
  { d with repeatTimer := timerAfter d, repeatState := windowAfter d }

/-- `phase` after `TICK(l)`, the table of R117. -/
def phaseAfter (l : Bool) (d : DecoderState) : Phase :=
  match d.phase with
  | .standby => if l then .delaying else .standby
  | .delaying =>
    if d.tickCounter.toNat + 1 ≤ 3 then .delaying
    else if d.bitIndex.toInt < 1 then .repeatCheck
    else .waiting
  | .waiting =>
    if l ≠ d.previousLevel then .delaying
    else if d.tickCounter.toNat + 1 ≤ 2 then .waiting
    else .standby
  | .repeatCheck => .standby

/-- The level operand of an operation that performs a `TICK`. -/
def levelOperand : Instr → Bool
  | .init => false
  | .nop => false
  | .tick l => l
  | .tickStandby l => l
  | .tickDelaying l => l
  | .tickWaiting l => l
  | .tickRepeatCheck l => l
  | .query => false
  | .queryTick l => l

/-- The result R140 gives a `QUERY` made on the record, the mask written out. -/
def queryAnswer (d : DecoderState) : QueryResult :=
  if d.newDataAvailable = true then .code (d.codeBuffer &&& 0x07FF)
  else if d.repeatState = .confirmed then .repeated
  else .noData

/-- A repeat window is open and the capture equals the buffered word (the first condition of R112). -/
def equalInWindow (d : DecoderState) : Prop :=
  d.repeatState ≠ .none ∧ d.codeAccumulator = d.codeBuffer

/-- No tick of the level string finds the block in RepeatCheck. -/
def noCaptureCompletes : List Bool → DecoderState → Prop
  | [], _ => True
  | l :: ls, d => d.phase ≠ .repeatCheck ∧ noCaptureCompletes ls (tick Config.params l d)

/-- The levels from one detected change to the next (R120): three ticks whatever the line does, `k`
ticks at the complement of the bit, the tick of the change. -/
def cellLevels (x y z : Bool) (k : Nat) (b : Bool) : List Bool :=
  [x, y, z] ++ List.replicate k (!b) ++ [b]

/-- An idle block that has nothing to report and no window open. -/
def IdleAndEmpty (s : State) : Prop :=
  s.initialised = true ∧ s.dec.Inv ∧ s.dec.phase = .standby ∧
    s.dec.newDataAvailable = false ∧ s.dec.repeatState = .none

/-- The record right after the RepeatCheck tick that delivered `w` (R85), when that tick's level was `l`
and the last recorded level was `q`. -/
def delivered (w : CodeWord) (l q : Bool) : DecoderState where
  phase := .standby
  level := l
  previousLevel := q
  codeAccumulator := 0
  codeBuffer := w
  newDataAvailable := true
  repeatState := .provisional
  repeatTimer := 1
  tickCounter := 0
  bitIndex := 13

end Sys2Proof.Claims

open Sys2Proof Sys2Proof.Machine Sys2Proof.Claims

/-! ### Edges, words, decoding -/

/-- A clock edge runs the operation its stimulus word decodes to, on the state whose placed word is gone
and whose edge count has advanced; where no word is placed the word is the free one (R71, log 1). -/
def Obligations.StepRunsStimulusAtPorts : Prop :=
  (∀ (s : State) (w : Stim) (rest : List Stim), s.pending = w :: rest →
      step s = exec (decodeStim w) { s with pending := rest, edge := s.edge + 1 }) ∧
    ∀ s : State, s.pending = [] →
      step s = exec (decodeStim (Config.freeStim s.edge)) { s with edge := s.edge + 1 }

/-- R72: the word is formed from the ports, and its sixteen values select the five operations. -/
def Obligations.StimWordsSelectOperations : Prop :=
  (∀ rst query tick ir : Bool,
      (stimOfPorts rst query tick ir).getLsbD 3 = rst ∧
      (stimOfPorts rst query tick ir).getLsbD 2 = query ∧
      (stimOfPorts rst query tick ir).getLsbD 1 = tick ∧
      (stimOfPorts rst query tick ir).getLsbD 0 = ir) ∧
    ∀ w : Stim,
      decodeStim w =
        if w.getLsbD 3 then .init
        else if w.getLsbD 2 then
          (if w.getLsbD 1 then .queryTick (w.getLsbD 0) else .query)
        else if w.getLsbD 1 then .tick (w.getLsbD 0) else .nop

/-- Decoding inverts encoding on every operation; a word decodes exactly where it is well formed; and a
word that decodes is, up to the bits its row ignores, the encoding of what it decodes to (R72, R74, R83). -/
def Obligations.DecodeAndEncodeAgree : Prop :=
  (∀ i : Instr, decode (encode i) = .ok i) ∧
    (∀ w : InWord, (∃ i, decode w = .ok i) ↔ w.wellFormed = true) ∧
    ∀ (w : InWord) (i : Instr), decode w = .ok i → encode i = canonical w

/-- Words of the opcode table written out from R72 and R74, with the operation each stands for; the byte
`0b00000010` is read as `TICK` (log 4). -/
def Obligations.TableWordsDecode : Prop :=
  decodeTableWord 8 0b1000 = some .init ∧ decodeTableWord 8 0b1111 = some .init ∧
    decodeTableWord 8 0b0001 = some .nop ∧ decodeTableWord 8 0b0010 = some (.tick false) ∧
    decodeTableWord 6 0b000011 = some (.tickStandby true) ∧
    decodeTableWord 8 0b010010 = some (.tickDelaying false) ∧
    decodeTableWord 8 0b100011 = some (.tickWaiting true) ∧
    decodeTableWord 8 0b110010 = some (.tickRepeatCheck false) ∧
    decodeTableWord 8 0b0101 = some .query ∧ decodeTableWord 8 0b0111 = some (.queryTick true) ∧
    decodeTableWord 8 0b010100 = none ∧ decodeTableWord 8 0b1000010 = none

/-- A table word placed at the ports is the operation of the very next edge: the step is that operation
on the state with the word gone (the model's placing of words, logs 1 and 4). -/
def Obligations.PlacedTableWordRunsNext : Prop :=
  ∀ (s : State) (w : Nat) (i : Instr), decodeTableWord 8 w = some i →
    step (s.withFetchWord 8 w) =
      exec i { s.withFetchWord 8 w with pending := s.pending, edge := s.edge + 1 }

/-! ### INIT, NOP, and the state after reset -/

/-- R150: `INIT` writes all ten fields from any state, shows NoData, and is what every word with `rst`
high selects. -/
def Obligations.InitWritesEveryField : Prop :=
  (∀ s : State,
      exec .init s =
        .next { s with
          dec := ⟨.standby, false, false, 0x0000, 0x0000, false, .none, 0, 0, 13⟩
          result := .noData
          initialised := true }) ∧
    ∀ query tick ir : Bool, decodeStim (stimOfPorts true query tick ir) = .init

/-- R43: the record after `INIT`, and the record of the reset state, field by field. -/
def Obligations.RecordAfterReset : Prop :=
  (∀ s t : State, exec .init s = .next t → t.dec = State.reset.dec) ∧
    State.reset.dec.phase = .standby ∧ State.reset.dec.level = false ∧
    State.reset.dec.previousLevel = false ∧ State.reset.dec.codeAccumulator = 0x0000 ∧
    State.reset.dec.codeBuffer = 0x0000 ∧ State.reset.dec.newDataAvailable = false ∧
    State.reset.dec.repeatState = .none ∧ State.reset.dec.repeatTimer = 0 ∧
    State.reset.dec.tickCounter = 0 ∧ State.reset.dec.bitIndex.toInt = 13

/-- Before the first `INIT` every form of `TICK` and of `QUERY` is refused, whatever the record holds;
`NOP` moves nothing (R151) and `INIT` runs (R150). R181 lets a model refuse such a run or start every run
with `INIT`: refusing, and holding in the state whether an `INIT` has been performed, are the model's
choice (log 3). -/
def Obligations.TickAndQueryRefusedBeforeInit : Prop :=
  State.powerOn.initialised = false ∧
    ∀ s : State, s.initialised = false →
      (∀ i : Instr, i.performsTick = true ∨ i.performsQuery = true →
        exec i s = .refused .beforeInit) ∧
      exec .nop s = .next { s with result := .noData } ∧
      ∃ t, exec .init s = .next t ∧ t.initialised = true ∧ t.dec = DecoderState.reset

/-- R151: `NOP` changes no field and shows NoData, `ir` is not looked at, and any positive number of
`NOP`s before an operation leaves that operation's outcome as it was. -/
def Obligations.NopChangesNoField : Prop :=
  (∀ s : State, exec .nop s = .next { s with result := .noData }) ∧
    (∀ ir : Bool, decodeStim (stimOfPorts false false false ir) = .nop) ∧
    ∀ (n : Nat) (i : Instr) (s : State),
      execAll (List.replicate n .nop ++ [i]) s = execAll [i] s

/-! ### TICK and its arms -/

/-- R100, R101, R116: the strobe `tick` alone selects `TICK(l)`; every `TICK` latches the sample, runs the
arm of the phase at entry, then runs the post-step; the outputs show NoData. -/
def Obligations.TickSamplesThenArmThenPostStep : Prop :=
  ∀ l : Bool,
    decodeStim (stimOfPorts false false true l) = .tick l ∧
    ∀ s : State, s.initialised = true →
      exec (.tick l) s =
        .next { s with
          dec := ticked (arm Config.params s.dec.phase { s.dec with level := l })
          result := .noData }

/-- R119: `TICK(l)` is the sub-operation of the phase held when the tick begins. -/
def Obligations.TickIsTheArmOfThePhaseAtEntry : Prop :=
  ∀ (l : Bool) (s : State), exec (.tick l) s = exec (Instr.armOf s.dec.phase l) s

/-- A sub-operation written for another phase than the one held is refused by name (the model's choice,
log 4; R74 selects arms by the `phase` register). -/
def Obligations.ArmOfAnotherPhaseIsRefused : Prop :=
  ∀ (l : Bool) (ph : Phase) (s : State), s.initialised = true → s.dec.phase ≠ ph →
    exec (Instr.armOf ph l) s = .refused .armNotSelected

/-- R102: in Standby a high level starts a capture; nothing else is written but the latch and the
post-step. -/
def Obligations.StandbyTickTestsTheLevel : Prop :=
  ∀ (l : Bool) (i : Instr) (s : State), s.initialised = true → s.dec.phase = .standby →
    (i = .tick l ∨ i = .tickStandby l) →
    exec i s =
      .next { s with
        dec := { s.dec with
          phase := if l then .delaying else .standby
          level := l
          repeatTimer := timerAfter s.dec
          repeatState := windowAfter s.dec }
        result := .noData }

/-- R103, R104, R105: in Delaying the counter moves first; not above 3 the block stays, above 3 the
counter is reset and the signed test of `bitIndex` decides between RepeatCheck and Waiting. The premise
leaves out the one value whose increment an 8-bit counter cannot hold, which R36 rules out (log 7). -/
def Obligations.DelayingTickCountsThenLeaves : Prop :=
  ∀ (l : Bool) (i : Instr) (s : State), s.initialised = true → s.dec.phase = .delaying →
    s.dec.tickCounter.toNat < 255 → (i = .tick l ∨ i = .tickDelaying l) →
    exec i s =
      .next { s with
        dec := ticked
          (if s.dec.tickCounter.toNat + 1 ≤ 3 then
            { s.dec with level := l, tickCounter := s.dec.tickCounter + 1 }
          else if s.dec.bitIndex.toInt < 1 then
            { s.dec with level := l, tickCounter := 0, bitIndex := 13, phase := .repeatCheck }
          else
            { s.dec with level := l, tickCounter := 0, previousLevel := l, phase := .waiting })
        result := .noData }

/-- R106, R107: in Waiting a level that differs from `previousLevel` takes the change branch in every
state, even where the counter would have passed its threshold; `bitIndex` is decremented and, where the
new level is high, the bit it then names is set. Outside the range of R39 the new `bitIndex` and the bit
set are those of the model's operations (logs 5, 6). -/
def Obligations.WaitingChangeWritesOneBit : Prop :=
  ∀ (l : Bool) (i : Instr) (s : State), s.initialised = true → s.dec.phase = .waiting →
    (i = .tick l ∨ i = .tickWaiting l) → l ≠ s.dec.previousLevel →
    ∃ (n : BitIndex) (acc : CodeWord),
      exec i s =
        .next { s with
          dec := ticked { s.dec with
            level := l, bitIndex := n, codeAccumulator := acc, tickCounter := 0, phase := .delaying }
          result := .noData } ∧
      (l = false → acc = s.dec.codeAccumulator) ∧
      (1 ≤ s.dec.bitIndex.toNat → s.dec.bitIndex.toNat ≤ 13 →
        n.toNat = s.dec.bitIndex.toNat - 1 ∧
        ∀ k : Nat, acc.getLsbD k =
          (s.dec.codeAccumulator.getLsbD k || (l && decide (k = s.dec.bitIndex.toNat - 1))))

/-- R108, R109, R110: in Waiting a level equal to `previousLevel` counts; not above 2 the block stays,
above 2 the capture is aborted, and nothing but the named fields is written. The premise on the counter
is that of the Delaying statement. -/
def Obligations.WaitingTickCountsThenAborts : Prop :=
  ∀ (l : Bool) (i : Instr) (s : State), s.initialised = true → s.dec.phase = .waiting →
    s.dec.tickCounter.toNat < 255 → (i = .tick l ∨ i = .tickWaiting l) → l = s.dec.previousLevel →
    exec i s =
      .next { s with
        dec := ticked
          (if s.dec.tickCounter.toNat + 1 ≤ 2 then
            { s.dec with level := l, tickCounter := s.dec.tickCounter + 1 }
          else
            { s.dec with
              level := l, tickCounter := 0, codeAccumulator := 0, bitIndex := 13, phase := .standby })
        result := .noData }

/-- R111, R112, R113, R114 with the post-step: the three outcomes of a RepeatCheck tick. An equal capture
in an open window is a confirmed repeat; another is delivered where no code is unread; else it is
discarded and the window is closed. -/
def Obligations.RepeatCheckTickOutcomes : Prop :=
  ∀ (l : Bool) (i : Instr) (s : State), s.initialised = true → s.dec.phase = .repeatCheck →
    (i = .tick l ∨ i = .tickRepeatCheck l) →
    (equalInWindow s.dec →
      exec i s =
        .next { s with
          dec := { s.dec with
            level := l, codeAccumulator := 0, phase := .standby
            repeatState := .confirmed, repeatTimer := 1 }
          result := .noData }) ∧
    (¬ equalInWindow s.dec → s.dec.newDataAvailable = false →
      exec i s =
        .next { s with
          dec := { s.dec with
            level := l, codeAccumulator := 0, phase := .standby
            codeBuffer := s.dec.codeAccumulator, newDataAvailable := true
            repeatState := .provisional, repeatTimer := 1 }
          result := .noData }) ∧
    (¬ equalInWindow s.dec → s.dec.newDataAvailable = true →
      exec i s =
        .next { s with
          dec := { s.dec with
            level := l, codeAccumulator := 0, phase := .standby
            repeatState := .none, repeatTimer := timerAfter s.dec }
          result := .noData })

/-! ### QUERY and QUERY+TICK -/

/-- R140 to R144: the strobe `query` alone selects `QUERY`; its three branches in their order; it clears a
set flag and touches nothing else. -/
def Obligations.QueryReportsAndConsumes : Prop :=
  (∀ ir : Bool, decodeStim (stimOfPorts false true false ir) = .query) ∧
  ∀ s : State, s.initialised = true →
    (s.dec.newDataAvailable = true →
      exec .query s =
        .next { s with
          dec := { s.dec with newDataAvailable := false }
          result := .code (s.dec.codeBuffer &&& 0x07FF) }) ∧
    (s.dec.newDataAvailable = false → s.dec.repeatState = .confirmed →
      exec .query s = .next { s with result := .repeated }) ∧
    (s.dec.newDataAvailable = false → s.dec.repeatState ≠ .confirmed →
      exec .query s = .next { s with result := .noData })

/-- R152: both strobes select `QUERY+TICK(l)`, which is `QUERY` followed by `TICK(l)`, with the query's
result on the outputs. -/
def Obligations.QueryTickIsQueryThenTick : Prop :=
  ∀ l : Bool,
    decodeStim (stimOfPorts false true true l) = .queryTick l ∧
    ∀ s : State, s.initialised = true →
      ∃ q t : State, exec .query s = .next q ∧ exec (.tick l) q = .next t ∧
        exec (.queryTick l) s = .next { t with result := q.result }

/-- R76: the codes on the ports, and what they show after any edge: the result computed from the state
before the edge where a query was performed, NoData otherwise. -/
def Obligations.ResultPortsShowTheQuery : Prop :=
  (resKind .noData = 0b00 ∧ resValue .noData = 0x0000) ∧
    (∀ v : CodeWord, resKind (.code v) = 0b01 ∧ resValue (.code v) = v) ∧
    (resKind .repeated = 0b10 ∧ resValue .repeated = 0x0000) ∧
    ∀ (i : Instr) (s t : State), exec i s = .next t →
      t.result = if i.performsQuery then queryAnswer s.dec else .noData

/-- R79: the mask, the delivered value, what it keeps and clears (the address and command fields are those
of R78), and that `0xE7FF` gives the same value of every word whose bits 15 to 13 are 0. -/
def Obligations.ControlMaskKeepsPayload : Prop :=
  Config.params.controlMask = 0x07FF ∧
    (∀ s : State, s.initialised = true → s.dec.newDataAvailable = true →
      ∃ t, exec .query s = .next t ∧ t.result = .code (payload Config.params s.dec.codeBuffer)) ∧
    ∀ w : CodeWord,
      (∀ k : Nat, (payload Config.params w).getLsbD k = (w.getLsbD k && decide (k ≤ 10))) ∧
      payload Config.params w = 0#5 ++ addressField w ++ commandField w ∧
      (w.toNat < 8192 → payload Config.params w = w &&& 0xE7FF)

/-- R55: a query that does not return a code changes no field and an immediate second query gives the
same; a second query right after a code returns none. -/
def Obligations.QueryRepeatedAtOnce : Prop :=
  ∀ s : State, s.initialised = true →
    ∃ t u : State, exec .query s = .next t ∧ exec .query t = .next u ∧
      (s.dec.newDataAvailable = false → t.dec = s.dec ∧ u = t) ∧
      (s.dec.newDataAvailable = true → ∀ v, u.result ≠ .code v)

/-! ### Invariants and whole-machine rules -/

/-- R35 to R39 as an invariant: every step from a state that meets it leaves a state that meets it, with
nothing assumed of how the state was reached. -/
def Obligations.StepKeepsRecordInvariant : Prop :=
  ∀ s t : State, s.Inv → step s = .next t → t.Inv

/-- The reset state meets the invariant, with its record initialised. -/
def Obligations.ResetMeetsRecordInvariant : Prop :=
  State.reset.initialised = true ∧ State.reset.Inv ∧ DecoderState.reset.Inv

/-- R160: once the block has been initialised, every operation that can be presented completes in its
one edge, and so does every clock edge, whatever word stands at the ports. -/
def Obligations.EveryOperationCompletes : Prop :=
  (∀ (i : Instr) (s : State), s.initialised = true → i.wellFormedIn s.dec.phase = true →
      ∃ t, exec i s = .next t ∧ t.initialised = true ∧ t.pending = s.pending ∧ t.edge = s.edge) ∧
    ∀ s : State, s.initialised = true →
      ∃ t, step s = .next t ∧ t.initialised = true ∧ t.pending = s.pending.tail ∧
        t.edge = s.edge + 1

/-- R117, R32: `phase` after every operation is the table's for one that performs a `TICK`, Standby after
`INIT`, and unchanged by `QUERY` and `NOP`. At a `tickCounter` of 255, which R36 rules out, leaving Delaying
or Waiting is the model's choice: the incremented counter is compared exactly and does not wrap (log 7). -/
def Obligations.PhaseMovesByTheTable : Prop :=
  ∀ (i : Instr) (s t : State), exec i s = .next t →
    t.dec.phase =
      if i = .init then .standby
      else if i.performsTick then phaseAfter (levelOperand i) s.dec
      else s.dec.phase

/-- R26, R41, R62: the flag is up after an operation only if an unread code was left as it was, or a
RepeatCheck tick has just moved the capture into the buffer, and that only where no code was unread or the
same operation's query has just read it; the buffer changes in no other way but `INIT`. -/
def Obligations.OnlyDeliveryFillsTheBuffer : Prop :=
  ∀ (i : Instr) (s t : State), exec i s = .next t →
    (t.dec.newDataAvailable = true →
      (s.dec.newDataAvailable = true ∧ i.performsQuery = false ∧
          t.dec.codeBuffer = s.dec.codeBuffer) ∨
        (i.performsTick = true ∧ s.dec.phase = .repeatCheck ∧
          (s.dec.newDataAvailable = false ∨ i.performsQuery = true) ∧
          t.dec.codeBuffer = s.dec.codeAccumulator ∧ t.dec.repeatState = .provisional ∧
          t.dec.repeatTimer = 1)) ∧
    (t.dec.codeBuffer ≠ s.dec.codeBuffer → i = .init ∨ t.dec.newDataAvailable = true)

/-- R113 corner (c), R187: an unread code outlives every sequence of ticks and idle edges, and the first
query then returns it. -/
def Obligations.UnreadCodeSurvivesUntilQueried : Prop :=
  ∀ (ops : List Instr) (s t : State), s.initialised = true → s.dec.newDataAvailable = true →
    (∀ i ∈ ops, i.leavesCodeUnread = true) → execAll ops s = .next t →
    t.dec.newDataAvailable = true ∧ t.dec.codeBuffer = s.dec.codeBuffer ∧
      exec .query t =
        .next { t with
          dec := { t.dec with newDataAvailable := false }
          result := .code (s.dec.codeBuffer &&& 0x07FF) }

/-- R22, R42 (a): no operation reads a `level` that an earlier tick latched. Two states that differ in it
only have the same outcome, up to that field. -/
def Obligations.EarlierLevelIsNeverRead : Prop :=
  ∀ (i : Instr) (b : Bool) (s t : State), exec i s = .next t →
    ∃ t' : State, exec i { s with dec := { s.dec with level := b } } = .next t' ∧
      { t' with dec := { t'.dec with level := t.dec.level } } = t

/-! ### Stays, captures and the repeat window, in ticks -/

/-- R103, R105: a stay in Delaying with bits left is four ticks; the first three look at no level, the
fourth is recorded. -/
def Obligations.DelayingStayIsFourTicks : Prop :=
  ∀ (a b c l : Bool) (s : State), s.initialised = true → s.dec.phase = .delaying →
    s.dec.tickCounter = 0 → 1 ≤ s.dec.bitIndex.toInt →
    ∃ t u : State, execAll (tickOps [a, b, c]) s = .next t ∧ exec (.tick l) t = .next u ∧
      t.dec.phase = .delaying ∧ t.dec.tickCounter = 3 ∧ u.dec.phase = .waiting ∧
      u.dec.previousLevel = l ∧ u.dec.tickCounter = 0 ∧ u.dec.bitIndex = s.dec.bitIndex ∧
      u.dec.codeAccumulator = s.dec.codeAccumulator

/-- R106, R109: in a stay in Waiting a change is accepted on the first, second or third tick, and three
ticks without a change abort the capture, reporting nothing. -/
def Obligations.WaitingStayIsAtMostThreeTicks : Prop :=
  ∀ (b : Bool) (s : State), s.initialised = true → s.dec.phase = .waiting →
    s.dec.tickCounter = 0 → s.dec.previousLevel = b →
    (∀ k ≤ 2, ∃ t, execAll (tickOps (List.replicate k b ++ [!b])) s = .next t ∧
      t.dec.phase = .delaying ∧ t.dec.tickCounter = 0 ∧
      t.dec.newDataAvailable = s.dec.newDataAvailable ∧ t.dec.codeBuffer = s.dec.codeBuffer) ∧
    ∃ t, execAll (tickOps [b, b, b]) s = .next t ∧ t.dec.phase = .standby ∧
      t.dec.tickCounter = 0 ∧ t.dec.codeAccumulator = 0 ∧ t.dec.bitIndex = 13 ∧
      t.dec.newDataAvailable = s.dec.newDataAvailable ∧ t.dec.codeBuffer = s.dec.codeBuffer

/-- R120 with R77: a start tick, thirteen bits whose changes are 5, 6 or 7 ticks apart (the line free on
the first three ticks after each change), and five further ticks deliver the word those changes
spell. -/
def Obligations.AcceptableTimingDeliversTheWord : Prop :=
  ∀ (w : BitVec 13) (x y z : Nat → Bool) (k : Nat → Nat) (a b c d e : Bool) (s : State),
    IdleAndEmpty s → (∀ j < 13, 1 ≤ k j ∧ k j ≤ 3) →
    execAll
        (tickOps
          (true :: (List.range 13).flatMap
              (fun j => cellLevels (x j) (y j) (z j) (k j) (w.getLsbD (12 - j)))
            ++ [a, b, c, d, e])) s =
      .next { s with dec := delivered (w.setWidth 16) e (!(w.getLsbD 0)), result := .noData }

/-- R85: `FRAME6(W)` from an idle, empty block delivers `W`, and one query then returns its payload and
the next one no data. -/
def Obligations.FrameDeliversItsWordOnce : Prop :=
  ∀ (w : BitVec 13) (s : State), IdleAndEmpty s →
    ∃ t u v : State,
      execAll (tickOps (frame6Levels w)) s = .next t ∧
      t.dec = delivered (w.setWidth 16) false (!(w.getLsbD 0)) ∧
      exec .query t = .next u ∧ u.result = .code (w.setWidth 16 &&& 0x07FF) ∧
      exec .query u = .next v ∧ v.result = .noData

/-- R37, R116, R121, R122: over ticks of which none finds RepeatCheck, the timer rises by one a tick to
500 and stays there, and the window's state stands until one tick past the ceiling and is None from then
on; an unread code and the buffer are not touched. -/
def Obligations.RepeatWindowAgesWithTicks : Prop :=
  ∀ (ls : List Bool) (s : State), s.initialised = true → s.dec.repeatTimer.toNat ≤ 500 →
    noCaptureCompletes ls s.dec →
    ∃ t, execAll (tickOps ls) s = .next t ∧
      t.dec.repeatTimer.toNat = min (s.dec.repeatTimer.toNat + ls.length) 500 ∧
      t.dec.repeatState =
        (if s.dec.repeatTimer.toNat + ls.length ≤ 500 then s.dec.repeatState else .none) ∧
      t.dec.newDataAvailable = s.dec.newDataAvailable ∧ t.dec.codeBuffer = s.dec.codeBuffer

/-- R121: the same word sent twice with `n` idle ticks between the frames is a repeat exactly when the
second RepeatCheck tick (84 + n ticks after the first) is at most 500 ticks after the first. -/
def Obligations.SecondFrameRepeatsWithinWindow : Prop :=
  ∀ (w : BitVec 13) (n : Nat) (s : State), IdleAndEmpty s →
    ∃ t u : State,
      execAll (tickOps (frame6Levels w) ++ [.query]) s = .next t ∧
      t.result = .code (w.setWidth 16 &&& 0x07FF) ∧
      execAll (tickOps (idleLevels n ++ frame6Levels w) ++ [.query]) t = .next u ∧
      u.result = if 84 + n ≤ 500 then .repeated else .code (w.setWidth 16 &&& 0x07FF)

/-- R190: a line stuck high from reset makes captures that all abort, with a period of eight ticks, and
no code is ever delivered. -/
def Obligations.StuckHighLineDeliversNothing : Prop :=
  ∀ n : Nat, ∃ t, execAll (tickOps (List.replicate n true)) State.reset = .next t ∧
    t.dec.newDataAvailable = false ∧ t.dec.codeBuffer = 0 ∧ t.dec.codeAccumulator = 0 ∧
    t.dec.phase =
      (if n % 8 = 0 then .standby else if n % 8 ≤ 4 then .delaying else .waiting)

/-! ### Two designs compared -/

/-- R118: on the states of R35 to R39 the machine's `TICK` is the reference listing's over unbounded
counters. -/
def Obligations.TickMatchesReferenceListing : Prop :=
  ∀ (l : Bool) (s : State), s.initialised = true → s.dec.Inv →
    ∃ t, exec (.tick l) s = .next t ∧ widen t.dec = wideTick Config.params l (widen s.dec)

/-- R145: the micro-steps with no tick between them are the atomic query, in both orders; with
`QUERY_ATOMIC` one event is (R57). -/
def Obligations.UninterruptedMicroStepsAreTheQuery : Prop :=
  ∀ (order : ReadOrder) (d : DecoderState),
    runShared softwareParams
        (List.replicate (if d.newDataAvailable then 3 else 2) (.micro order)) ⟨d, .idle⟩ =
      ⟨{ d with newDataAvailable := false }, .returned (queryAnswer d)⟩ ∧
    runShared Config.params [.micro order] ⟨d, .idle⟩ =
      ⟨{ d with newDataAvailable := false }, .returned (queryAnswer d)⟩

/-- R57: the software variant admits every run of the hardware, `INIT` included: with `q2` and `q3` in
either order there are events that leave the record the operations leave, and in which the consumer
receives the results the ports show. -/
def Obligations.SoftwareVariantAdmitsEveryRun : Prop :=
  ∀ (order : ReadOrder) (ops : List Instr) (s t : State), execAll ops s = .next t →
    ∃ es : List SharedEvent,
      (∀ o : ReadOrder, SharedEvent.micro o ∈ es → o = order) ∧
      (runShared softwareParams es ⟨s.dec, .idle⟩).block = t.dec ∧
      sharedAnswers softwareParams es ⟨s.dec, .idle⟩ = queryAnswers ops s

/-- R147 (a): a delivering RepeatCheck tick between `q2` and `q3` makes this query and the next one both
return the new code; the old one is returned by neither. -/
def Obligations.TickBetweenClearAndReadRepeatsNewCode : Prop :=
  ∀ (l : Bool) (d : DecoderState), d.newDataAvailable = true → d.phase = .repeatCheck →
    ¬ equalInWindow d →
    ∃ s : Shared,
      runShared softwareParams
          [.micro .clearFirst, .micro .clearFirst, .tick l, .micro .clearFirst] ⟨d, .idle⟩ = s ∧
      s.consumer = .returned (.code (d.codeAccumulator &&& 0x07FF)) ∧
      s.block.codeBuffer = d.codeAccumulator ∧ s.block.newDataAvailable = true ∧
      ∀ order : ReadOrder,
        (runShared softwareParams [.micro order, .micro order, .micro order] s).consumer =
          .returned (.code (d.codeAccumulator &&& 0x07FF))

/-- R147 (b): a RepeatCheck tick between `q3` and `q2` delivers nothing; the old code is returned, and a
capture that the atomic order `QUERY` then `TICK` would have delivered is lost. -/
def Obligations.TickBetweenReadAndClearLosesCapture : Prop :=
  ∀ (l : Bool) (d : DecoderState), d.newDataAvailable = true → d.phase = .repeatCheck →
    ¬ equalInWindow d →
    ∃ s : Shared,
      runShared softwareParams
          [.micro .readFirst, .micro .readFirst, .tick l, .micro .readFirst] ⟨d, .idle⟩ = s ∧
      s.consumer = .returned (.code (d.codeBuffer &&& 0x07FF)) ∧
      s.block.codeBuffer = d.codeBuffer ∧ s.block.newDataAvailable = false ∧
      ∃ a : Shared,
        runShared Config.params [.micro .readFirst, .tick l] ⟨d, .idle⟩ = a ∧
        a.consumer = s.consumer ∧ a.block.codeBuffer = d.codeAccumulator ∧
        a.block.newDataAvailable = true

/-- R147 (c), first half: ticks between `q1` and `q2`, however many, give what the ticks followed by the
atomic query give. -/
def Obligations.TicksBeforeClearAreAnAtomicOrder : Prop :=
  ∀ (order : ReadOrder) (ls : List Bool) (d : DecoderState), d.newDataAvailable = true →
    runShared softwareParams
        ([.micro order] ++ ls.map .tick ++ [.micro order, .micro order]) ⟨d, .idle⟩ =
      runShared Config.params (ls.map .tick ++ [.micro order]) ⟨d, .idle⟩

/-- Against R147 (c), second half: a delivering RepeatCheck tick between `q1` and `q4` of a confirmed
repeat makes the query return no data, which neither atomic order returns: query first gives the repeat,
tick first gives the new code (log 10: the micro-steps of R145 are followed). -/
def Obligations.TickBeforeQ4MatchesNoAtomicOrder : Prop :=
  ∀ (order : ReadOrder) (l : Bool) (d : DecoderState), d.newDataAvailable = false →
    d.repeatState = .confirmed → d.phase = .repeatCheck → d.codeAccumulator ≠ d.codeBuffer →
    (runShared softwareParams [.micro order, .tick l, .micro order] ⟨d, .idle⟩).consumer =
        .returned .noData ∧
      (runShared Config.params [.micro order, .tick l] ⟨d, .idle⟩).consumer = .returned .repeated ∧
      (runShared Config.params [.tick l, .micro order] ⟨d, .idle⟩).consumer =
        .returned (.code (d.codeAccumulator &&& 0x07FF))
end

