-- ==== Sys2Proof/Laws/State.lean ====
section
/-! SUPPORT. One lemma per field per update of the state and of the record, so that no later proof unfolds
an update; and the values of the parameters. -/

namespace Sys2Proof

/-! ### Parameters -/

@[simp] theorem Config.params_bitCount : Config.params.bitCount = 13 := rfl
@[simp] theorem Config.params_delayThreshold : Config.params.delayThreshold = 3 := rfl
@[simp] theorem Config.params_timeoutThreshold : Config.params.timeoutThreshold = 2 := rfl
@[simp] theorem Config.params_repeatCeiling : Config.params.repeatCeiling = 500 := rfl
@[simp] theorem Config.params_controlMask : Config.params.controlMask = 0x07FF := rfl
@[simp] theorem Config.params_queryAtomic : Config.params.queryAtomic = true := rfl
theorem Config.params_wellFormed : Config.params.wellFormed = true := by decide

end Sys2Proof

namespace Sys2Proof.Machine

open Sys2Proof.Config (Params)

@[simp] theorem softwareParams_controlMask : softwareParams.controlMask = 0x07FF := rfl
@[simp] theorem softwareParams_queryAtomic : softwareParams.queryAtomic = false := rfl
@[simp] theorem bitCountIndex_params : bitCountIndex Config.params = 13 := rfl

/-- The ticks of the software variant are the hardware's: no arm reads `QUERY_ATOMIC`. -/
theorem tick_softwareParams (l : Bool) (d : DecoderState) :
    tick softwareParams l d = tick Config.params l d := rfl

/-! ### Updates of the state -/

section StateUpdates
variable (s : State) (d : DecoderState) (r : QueryResult)

@[simp] theorem State.afterEdge_dec : (s.afterEdge d r).dec = d := rfl
@[simp] theorem State.afterEdge_result : (s.afterEdge d r).result = r := rfl
@[simp] theorem State.afterEdge_initialised : (s.afterEdge d r).initialised = s.initialised := rfl
@[simp] theorem State.afterEdge_pending : (s.afterEdge d r).pending = s.pending := rfl
@[simp] theorem State.afterEdge_edge : (s.afterEdge d r).edge = s.edge := rfl

@[simp] theorem passEdge_dec : (passEdge s).dec = s.dec := rfl
@[simp] theorem passEdge_result : (passEdge s).result = s.result := rfl
@[simp] theorem passEdge_initialised : (passEdge s).initialised = s.initialised := rfl
@[simp] theorem passEdge_pending : (passEdge s).pending = s.pending.tail := rfl
@[simp] theorem passEdge_edge : (passEdge s).edge = s.edge + 1 := rfl

@[simp] theorem afterInit_of_initialised {s : State} (h : s.initialised = true)
    (k : Host.Outcome State Fault Refusal) : afterInit s k = k := by simp [afterInit, h]
@[simp] theorem afterInit_of_not_initialised {s : State} (h : s.initialised = false)
    (k : Host.Outcome State Fault Refusal) : afterInit s k = .refused .beforeInit := by
  simp [afterInit, h]

end StateUpdates

/-! ### Updates of the record -/

section RecordUpdates
variable (p : Params) (l : Bool) (d : DecoderState)

@[simp] theorem sample_phase : (sample l d).phase = d.phase := rfl
@[simp] theorem sample_level : (sample l d).level = l := rfl
@[simp] theorem sample_previousLevel : (sample l d).previousLevel = d.previousLevel := rfl
@[simp] theorem sample_codeAccumulator : (sample l d).codeAccumulator = d.codeAccumulator := rfl
@[simp] theorem sample_codeBuffer : (sample l d).codeBuffer = d.codeBuffer := rfl
@[simp] theorem sample_newDataAvailable : (sample l d).newDataAvailable = d.newDataAvailable := rfl
@[simp] theorem sample_repeatState : (sample l d).repeatState = d.repeatState := rfl
@[simp] theorem sample_repeatTimer : (sample l d).repeatTimer = d.repeatTimer := rfl
@[simp] theorem sample_tickCounter : (sample l d).tickCounter = d.tickCounter := rfl
@[simp] theorem sample_bitIndex : (sample l d).bitIndex = d.bitIndex := rfl

@[simp] theorem abort_phase : (abort p d).phase = .standby := rfl
@[simp] theorem abort_level : (abort p d).level = d.level := rfl
@[simp] theorem abort_previousLevel : (abort p d).previousLevel = d.previousLevel := rfl
@[simp] theorem abort_codeAccumulator : (abort p d).codeAccumulator = 0 := rfl
@[simp] theorem abort_codeBuffer : (abort p d).codeBuffer = d.codeBuffer := rfl
@[simp] theorem abort_newDataAvailable : (abort p d).newDataAvailable = d.newDataAvailable := rfl
@[simp] theorem abort_repeatState : (abort p d).repeatState = d.repeatState := rfl
@[simp] theorem abort_repeatTimer : (abort p d).repeatTimer = d.repeatTimer := rfl
@[simp] theorem abort_tickCounter : (abort p d).tickCounter = 0 := rfl
@[simp] theorem abort_bitIndex : (abort p d).bitIndex = bitCountIndex p := rfl

@[simp] theorem finishStep_phase : (finishStep d).phase = .standby := rfl
@[simp] theorem finishStep_level : (finishStep d).level = d.level := rfl
@[simp] theorem finishStep_previousLevel : (finishStep d).previousLevel = d.previousLevel := rfl
@[simp] theorem finishStep_codeAccumulator : (finishStep d).codeAccumulator = 0 := rfl
@[simp] theorem finishStep_codeBuffer : (finishStep d).codeBuffer = d.codeBuffer := rfl
@[simp] theorem finishStep_newDataAvailable :
    (finishStep d).newDataAvailable = d.newDataAvailable := rfl
@[simp] theorem finishStep_repeatState : (finishStep d).repeatState = d.repeatState := rfl
@[simp] theorem finishStep_repeatTimer : (finishStep d).repeatTimer = d.repeatTimer := rfl
@[simp] theorem finishStep_tickCounter : (finishStep d).tickCounter = d.tickCounter := rfl
@[simp] theorem finishStep_bitIndex : (finishStep d).bitIndex = d.bitIndex := rfl

@[simp] theorem exitToRepeatCheck_phase : (exitToRepeatCheck p d).phase = .repeatCheck := rfl
@[simp] theorem exitToRepeatCheck_bitIndex : (exitToRepeatCheck p d).bitIndex = bitCountIndex p := rfl
@[simp] theorem exitToRepeatCheck_codeAccumulator :
    (exitToRepeatCheck p d).codeAccumulator = d.codeAccumulator := rfl
@[simp] theorem exitToRepeatCheck_tickCounter :
    (exitToRepeatCheck p d).tickCounter = d.tickCounter := rfl

@[simp] theorem exitToWaiting_phase : (exitToWaiting d).phase = .waiting := rfl
@[simp] theorem exitToWaiting_previousLevel : (exitToWaiting d).previousLevel = d.level := rfl
@[simp] theorem exitToWaiting_bitIndex : (exitToWaiting d).bitIndex = d.bitIndex := rfl
@[simp] theorem exitToWaiting_codeAccumulator :
    (exitToWaiting d).codeAccumulator = d.codeAccumulator := rfl
@[simp] theorem exitToWaiting_tickCounter : (exitToWaiting d).tickCounter = d.tickCounter := rfl

@[simp] theorem changeBranch_phase : (changeBranch d).phase = .delaying := rfl
@[simp] theorem changeBranch_level : (changeBranch d).level = d.level := rfl
@[simp] theorem changeBranch_previousLevel : (changeBranch d).previousLevel = d.previousLevel := rfl
@[simp] theorem changeBranch_tickCounter : (changeBranch d).tickCounter = 0 := rfl
@[simp] theorem changeBranch_bitIndex : (changeBranch d).bitIndex = decrementIndex d.bitIndex := rfl

@[simp] theorem initFields_eq_reset : initFields Config.params = DecoderState.reset := rfl

end RecordUpdates

end Sys2Proof.Machine
end

