-- ==== Sys2Proof/Laws/Ops.lean ====
section
/-! SUPPORT. For each shared operation, one lemma that says once what it can do; and the inversion of
`exec`. Proofs cite these instead of unfolding the operations. -/

namespace Sys2Proof.Machine

open Sys2Proof.Config (Params)

/-! ### Operands -/

/-- The bit that `bitAt` sets, for a position of a 16-bit word. -/
theorem bitAt_getLsbD {n : BitIndex} (h : n.toNat < 16) (k : Nat) :
    (bitAt n).getLsbD k = decide (k = n.toNat) := by
  rw [bitAt, if_pos h, BitVec.getLsbD_shiftLeft, BitVec.getLsbD_one]
  by_cases e : k = n.toNat
  · simp [e, h]
  · by_cases hk : k < n.toNat
    · simp [hk, e]
    · have : k - n.toNat ≠ 0 := by omega
      simp [e, this]

/-- Setting a bit below position 13 keeps bits 15 to 13 clear (R38). -/
theorem or_bitAt_lt {w : CodeWord} {n : BitIndex} (hw : w.toNat < 8192) (hn : n.toNat < 13) :
    (w ||| bitAt n).toNat < 8192 := by
  rw [BitVec.toNat_or]
  refine Nat.or_lt_two_pow (n := 13) hw ?_
  rw [bitAt, if_pos (by omega)]
  generalize n.toNat = m at hn
  interval_cases m <;> decide

/-- The decrement of a `bitIndex` of the range of R39 is exact. -/
theorem decrementIndex_toNat {n : BitIndex} (h1 : 1 ≤ n.toNat) (h2 : n.toNat ≤ 13) :
    (decrementIndex n).toNat = n.toNat - 1 := by
  have h : n ≠ 0x80 := by rintro rfl; simp at h2
  rw [decrementIndex, if_neg h]
  bv_omega

/-- In the range of R35 the signed test `bitIndex < 1` is a test for zero (D20). -/
theorem toInt_lt_one_iff {n : BitIndex} (h : n.toNat ≤ 13) : n.toInt < 1 ↔ n.toNat = 0 := by
  rw [BitVec.toInt_eq_toNat_cond]
  split <;> omega

/-! ### Counters and flags -/

/-- The counter after a counted tick (R103, R108). -/
theorem countTick_eq (d : DecoderState) :
    countTick d = { d with tickCounter := d.tickCounter + 1 } := by
  have : BitVec.ofNat 8 (d.tickCounter.toNat + 1) = d.tickCounter + 1 :=
    BitVec.eq_of_toNat_eq (by simp)
  simp [countTick, nextTick, this]

/-- What the compare step does (R112). -/
theorem compareStep_cases (d : DecoderState) :
    (d.repeatState = .none ∧ compareStep d = d) ∨
    (d.repeatState ≠ .none ∧ d.codeAccumulator = d.codeBuffer ∧
      compareStep d = { d with repeatTimer := 0, repeatState := .confirmed }) ∨
    (d.repeatState ≠ .none ∧ d.codeAccumulator ≠ d.codeBuffer ∧
      compareStep d = { d with repeatState := .none }) := by
  unfold compareStep
  by_cases h : d.repeatState = .none
  · exact .inl ⟨h, if_pos h⟩
  · by_cases e : d.codeAccumulator = d.codeBuffer
    · exact .inr (.inl ⟨h, e, by rw [if_neg h, if_pos e]⟩)
    · exact .inr (.inr ⟨h, e, by rw [if_neg h, if_neg e]⟩)

/-- What the deliver step does (R113). -/
theorem deliverStep_cases (d : DecoderState) :
    (d.repeatState = .none ∧ d.newDataAvailable = false ∧
      deliverStep d = { d with
        codeBuffer := d.codeAccumulator, repeatTimer := 0, repeatState := .provisional
        newDataAvailable := true }) ∨
    (¬ (d.repeatState = .none ∧ d.newDataAvailable = false) ∧ deliverStep d = d) := by
  unfold deliverStep
  by_cases h : d.repeatState = .none ∧ d.newDataAvailable = false
  · exact .inl ⟨h.1, h.2, if_pos h⟩
  · exact .inr ⟨h, if_neg h⟩

/-- What the post-step does (R116). -/
theorem postStep_cases (p : Params) (d : DecoderState) :
    (d.repeatTimer.toNat < p.repeatCeiling ∧
      postStep p d = { d with repeatTimer := d.repeatTimer + 1 }) ∨
    (p.repeatCeiling ≤ d.repeatTimer.toNat ∧ postStep p d = { d with repeatState := .none }) := by
  unfold postStep
  by_cases h : d.repeatTimer.toNat < p.repeatCeiling
  · exact .inl ⟨h, if_pos h⟩
  · exact .inr ⟨Nat.le_of_not_lt h, if_neg h⟩

/-! ### Arms -/

/-- What the Standby arm does (R102). -/
theorem standbyArm_cases (d : DecoderState) :
    (d.level = true ∧ standbyArm d = { d with phase := .delaying }) ∨
    (d.level = false ∧ standbyArm d = d) := by
  unfold standbyArm
  cases d.level <;> simp

/-- What the Delaying arm does (R103 to R105). -/
theorem delayingArm_cases (p : Params) (d : DecoderState) :
    (d.tickCounter.toNat + 1 ≤ p.delayThreshold ∧
      delayingArm p d = { d with tickCounter := d.tickCounter + 1 }) ∨
    (p.delayThreshold < d.tickCounter.toNat + 1 ∧ d.bitIndex.toInt < 1 ∧
      delayingArm p d =
        { d with tickCounter := 0, bitIndex := bitCountIndex p, phase := .repeatCheck }) ∨
    (p.delayThreshold < d.tickCounter.toNat + 1 ∧ 1 ≤ d.bitIndex.toInt ∧
      delayingArm p d =
        { d with tickCounter := 0, previousLevel := d.level, phase := .waiting }) := by
  unfold delayingArm
  by_cases h : p.delayThreshold < d.tickCounter.toNat + 1
  · by_cases b : d.bitIndex.toInt < 1
    · exact .inr (.inl ⟨h, b, by rw [if_pos (show p.delayThreshold < nextTick d from h), if_pos b]; rfl⟩)
    · exact .inr (.inr ⟨h, Int.not_lt.mp b,
        by rw [if_pos (show p.delayThreshold < nextTick d from h), if_neg b]; rfl⟩)
  · exact .inl ⟨Nat.le_of_not_lt h,
      by rw [if_neg (show ¬ p.delayThreshold < nextTick d from h), countTick_eq]⟩

/-- What the Waiting arm does (R106 to R110). -/
theorem waitingArm_cases (p : Params) (d : DecoderState) :
    (d.level ≠ d.previousLevel ∧ waitingArm p d = changeBranch d) ∨
    (d.level = d.previousLevel ∧ d.tickCounter.toNat + 1 ≤ p.timeoutThreshold ∧
      waitingArm p d = { d with tickCounter := d.tickCounter + 1 }) ∨
    (d.level = d.previousLevel ∧ p.timeoutThreshold < d.tickCounter.toNat + 1 ∧
      waitingArm p d = abort p d) := by
  unfold waitingArm noChangeBranch
  by_cases e : d.level = d.previousLevel
  · by_cases h : p.timeoutThreshold < d.tickCounter.toNat + 1
    · exact .inr (.inr ⟨e, h, by rw [if_pos e, if_pos (show p.timeoutThreshold < nextTick d from h)]⟩)
    · exact .inr (.inl ⟨e, Nat.le_of_not_lt h,
        by rw [if_pos e, if_neg (show ¬ p.timeoutThreshold < nextTick d from h), countTick_eq]⟩)
  · exact .inl ⟨e, if_neg e⟩

/-- What the RepeatCheck arm does: confirm, deliver or discard (R111 to R114, R123). -/
theorem repeatCheckArm_cases (d : DecoderState) :
    ((d.repeatState ≠ .none ∧ d.codeAccumulator = d.codeBuffer) ∧
      repeatCheckArm d = { d with
        repeatTimer := 0, repeatState := .confirmed, codeAccumulator := 0, phase := .standby }) ∨
    (¬ (d.repeatState ≠ .none ∧ d.codeAccumulator = d.codeBuffer) ∧ d.newDataAvailable = false ∧
      repeatCheckArm d = { d with
        codeBuffer := d.codeAccumulator, repeatTimer := 0, repeatState := .provisional
        newDataAvailable := true, codeAccumulator := 0, phase := .standby }) ∨
    (¬ (d.repeatState ≠ .none ∧ d.codeAccumulator = d.codeBuffer) ∧ d.newDataAvailable = true ∧
      repeatCheckArm d = { d with
        repeatState := .none, codeAccumulator := 0, phase := .standby }) := by
  obtain ⟨ph, lv, pl, acc, buf, nda, rs, rt, tc, bi⟩ := d
  unfold repeatCheckArm compareStep deliverStep finishStep
  by_cases e : acc = buf <;> cases rs <;> cases nda <;> simp [e]

/-- Outside RepeatCheck no arm touches the buffer, the flags or the repeat timer (R113, R116). -/
theorem arm_keeps_result_fields (p : Params) {ph : Phase} (h : ph ≠ .repeatCheck) (d : DecoderState) :
    (arm p ph d).codeBuffer = d.codeBuffer ∧ (arm p ph d).newDataAvailable = d.newDataAvailable ∧
      (arm p ph d).repeatState = d.repeatState ∧ (arm p ph d).repeatTimer = d.repeatTimer := by
  cases ph with
  | standby => rcases standbyArm_cases d with ⟨_, e⟩ | ⟨_, e⟩ <;> simp [arm, e]
  | delaying => rcases delayingArm_cases p d with ⟨_, e⟩ | ⟨_, _, e⟩ | ⟨_, _, e⟩ <;> simp [arm, e]
  | waiting =>
    rcases waitingArm_cases p d with ⟨_, e⟩ | ⟨_, _, e⟩ | ⟨_, _, e⟩ <;> simp [arm, e, changeBranch]
  | repeatCheck => exact absurd rfl h

/-! ### QUERY -/

/-- `QUERY` leaves the flag clear and every other field as it was (R144). -/
theorem queryEffect_eq (d : DecoderState) :
    queryEffect d = { d with newDataAvailable := false } := by
  obtain ⟨ph, lv, pl, acc, buf, nda, rs, rt, tc, bi⟩ := d
  cases nda <;> rfl

/-! ### exec -/

/-- An initialised block runs `TICK` (R100). -/
theorem exec_tick_of_initialised {s : State} (h : s.initialised = true) (l : Bool) :
    exec (.tick l) s = .next (s.afterEdge (tick Config.params l s.dec) .noData) := by
  simp [exec, execTick, h]

/-- The sub-operation of the phase held is `TICK` (R74). -/
theorem runArm_eq_execTick {s : State} {ph : Phase} (h : s.dec.phase = ph) (l : Bool) :
    runArm ph (arm Config.params ph) l s = execTick l s := by
  subst h
  simp [runArm, execTick, tick]

/-- Everything `exec` can do with an operation that it completes: which of the five operations of R72 it
amounts to, the record and the result it leaves, and that the rest of the state is kept. -/
theorem exec_next_cases {i : Instr} {s t : State} (h : exec i s = .next t) :
    (i = .init ∧ t = { s.afterEdge DecoderState.reset .noData with initialised := true }) ∨
    (i = .nop ∧ t = s.afterEdge s.dec .noData) ∨
    (s.initialised = true ∧ i = .query ∧
      t = s.afterEdge (queryEffect s.dec) (queryResult Config.params s.dec)) ∨
    (∃ l, s.initialised = true ∧ i = .queryTick l ∧
      t = s.afterEdge (tick Config.params l (queryEffect s.dec))
        (queryResult Config.params s.dec)) ∨
    (∃ l, s.initialised = true ∧ (i = .tick l ∨ i = Instr.armOf s.dec.phase l) ∧
      t = s.afterEdge (tick Config.params l s.dec) .noData) := by
  have runArm_next : ∀ {ph f l}, runArm ph f l s = .next t →
      s.initialised = true ∧ s.dec.phase = ph ∧
        t = s.afterEdge (postStep Config.params (f (sample l s.dec))) .noData := by
    intro ph f l h
    unfold runArm afterInit at h
    split at h
    · split at h
      · cases h; exact ⟨‹_›, ‹_›, rfl⟩
      · cases h
    · cases h
  have afterInit_next : ∀ {u}, afterInit s (.next u) = .next t → s.initialised = true ∧ t = u := by
    intro u h
    unfold afterInit at h
    split at h
    · cases h; exact ⟨‹_›, rfl⟩
    · cases h
  cases i with
  | init => cases h; exact .inl ⟨rfl, rfl⟩
  | nop => cases h; exact .inr (.inl ⟨rfl, rfl⟩)
  | query =>
    obtain ⟨hi, e⟩ := afterInit_next h
    exact .inr (.inr (.inl ⟨hi, rfl, e⟩))
  | queryTick l =>
    obtain ⟨hi, e⟩ := afterInit_next h
    exact .inr (.inr (.inr (.inl ⟨l, hi, rfl, e⟩)))
  | tick l =>
    obtain ⟨hi, e⟩ := afterInit_next h
    exact .inr (.inr (.inr (.inr ⟨l, hi, .inl rfl, e⟩)))
  | tickStandby l =>
    obtain ⟨hi, hp, e⟩ := runArm_next h
    exact .inr (.inr (.inr (.inr ⟨l, hi, .inr (by rw [hp]; rfl), by rw [e, tick, hp]; rfl⟩)))
  | tickDelaying l =>
    obtain ⟨hi, hp, e⟩ := runArm_next h
    exact .inr (.inr (.inr (.inr ⟨l, hi, .inr (by rw [hp]; rfl), by rw [e, tick, hp]; rfl⟩)))
  | tickWaiting l =>
    obtain ⟨hi, hp, e⟩ := runArm_next h
    exact .inr (.inr (.inr (.inr ⟨l, hi, .inr (by rw [hp]; rfl), by rw [e, tick, hp]; rfl⟩)))
  | tickRepeatCheck l =>
    obtain ⟨hi, hp, e⟩ := runArm_next h
    exact .inr (.inr (.inr (.inr ⟨l, hi, .inr (by rw [hp]; rfl), by rw [e, tick, hp]; rfl⟩)))

/-! ### Runs -/

/-- The ticks of a level string, then the ticks of another. -/
theorem ticks_append (p : Params) (ls ms : List Bool) (d : DecoderState) :
    ticks p (ls ++ ms) d = ticks p ms (ticks p ls d) := List.foldl_append

@[simp] theorem sharedStep_init (p : Params) (s : Shared) :
    sharedStep p s .init = ⟨initFields p, s.consumer⟩ := rfl
@[simp] theorem sharedStep_nop (p : Params) (s : Shared) : sharedStep p s .nop = s := rfl
@[simp] theorem sharedStep_tick (p : Params) (s : Shared) (l : Bool) :
    sharedStep p s (.tick l) = ⟨tick p l s.block, s.consumer⟩ := rfl

/-- Everything a micro-step can do to the block: nothing, or clear the flag (R31, R145). -/
theorem microStep_block_cases (p : Params) (order : ReadOrder) (s : Shared) :
    (microStep p order s).block = s.block ∨
      (microStep p order s).block = { s.block with newDataAvailable := false } := by
  obtain ⟨d, c⟩ := s
  unfold microStep
  split
  · exact .inr (queryEffect_eq d)
  · cases c with
    | idle => exact .inl rfl
    | sawFlag f => cases f <;> cases order <;> first | exact .inl rfl | exact .inr rfl
    | clearedFlag => exact .inl rfl
    | readBuffer v => exact .inr rfl
    | returned r => exact .inl rfl

/-- A run of two parts in the software variant. -/
theorem runShared_append (p : Params) (es fs : List SharedEvent) (s : Shared) :
    runShared p (es ++ fs) s = runShared p fs (runShared p es s) := List.foldl_append

/-- The results of a run of two parts in the software variant. -/
theorem sharedAnswers_append (p : Params) (es fs : List SharedEvent) (s : Shared) :
    sharedAnswers p (es ++ fs) s =
      sharedAnswers p es s ++ sharedAnswers p fs (runShared p es s) := by
  induction es generalizing s with
  | nil => rfl
  | cons e es ih =>
    simp only [List.cons_append, sharedAnswers, ih, List.append_assoc]
    rfl

/-- An initialised block completes every level string; its record is that of `ticks`. -/
theorem execAll_tickOps {s : State} (h : s.initialised = true) (l : Bool) (ls : List Bool) :
    execAll (tickOps (l :: ls)) s =
      .next (s.afterEdge (ticks Config.params (l :: ls) s.dec) .noData) := by
  induction ls generalizing s l with
  | nil => simp [execAll, tickOps, ticks, exec_tick_of_initialised h]
  | cons m ls ih =>
    have := ih (s := s.afterEdge (tick Config.params l s.dec) .noData) h m
    simp only [tickOps, List.map_cons] at this
    simp only [tickOps, List.map_cons]
    rw [execAll, exec_tick_of_initialised h]
    exact this

/-- A run of two parts. -/
theorem execAll_append (is js : List Instr) {s t : State} (h : execAll is s = .next t) :
    execAll (is ++ js) s = execAll js t := by
  induction is generalizing s with
  | nil => cases h; rfl
  | cons i is ih =>
    simp only [execAll, List.cons_append] at h ⊢
    cases hx : exec i s with
    | next u => rw [hx] at h; exact ih h
    | fault r => cases r
    | refused r => rw [hx] at h; cases h

end Sys2Proof.Machine
end

