-- ==== Sys2Proof/Laws/PerInstr.lean ====
section
/-! SUPPORT. The family `EncodeWellFormed`: the word an operation encodes to is well formed, and it is its
own canonical word (R72, R74, R83). One lemma per constructor. -/

namespace Sys2Proof.Laws.EncodeWellFormed

/-- The operation's word is well formed and has its ignored bits clear. -/
def Statement (i : Instr) : Prop :=
  (encode i).wellFormed = true ∧ canonical (encode i) = encode i

theorem init : Statement .init := by unfold Statement; decide
theorem nop : Statement .nop := by unfold Statement; decide
theorem tick (l : Bool) : Statement (.tick l) := by unfold Statement; revert l; decide
theorem tickStandby (l : Bool) : Statement (.tickStandby l) := by
  unfold Statement; revert l; decide
theorem tickDelaying (l : Bool) : Statement (.tickDelaying l) := by
  unfold Statement; revert l; decide
theorem tickWaiting (l : Bool) : Statement (.tickWaiting l) := by
  unfold Statement; revert l; decide
theorem tickRepeatCheck (l : Bool) : Statement (.tickRepeatCheck l) := by
  unfold Statement; revert l; decide
theorem query : Statement .query := by unfold Statement; decide
theorem queryTick (l : Bool) : Statement (.queryTick l) := by unfold Statement; revert l; decide

end Sys2Proof.Laws.EncodeWellFormed
end

