-- ==== Sys2Proof/Tests/Slice0.lean ====
section
/-! SUPPORT. Tests. Expected values are those of spec/95_test_vectors.md (V<n>) or are worked out by hand
from the rule named. First the ill-formed terms each check refuses, then the decoder on words written out
from spec/30_encoding.md, then single edges, then the witnesses of the statements' hypotheses. -/

namespace Sys2Proof.Tests

open Sys2Proof.Machine Sys2Proof.Claims

/-- An initialised block with this record, nothing placed at its ports. -/
def blockWith (d : DecoderState) : State := { State.reset with dec := d }

/-- The record an operation leaves in an initialised block with this record. -/
def recordAfter (i : Instr) (d : DecoderState) : Option DecoderState :=
  (nextState (exec i (blockWith d))).map (·.dec)

/-- The result an operation shows in an initialised block with this record. -/
def resultAfter (i : Instr) (d : DecoderState) : Option QueryResult :=
  (nextState (exec i (blockWith d))).map (·.result)

/-! ### Well-formedness refuses -/

theorem test_delaying_arm_ill_formed_in_standby :
    (Instr.tickDelaying true).wellFormedIn .standby = false := by decide
theorem test_standby_arm_ill_formed_in_waiting :
    (Instr.tickStandby false).wellFormedIn .waiting = false := by decide
theorem test_waiting_arm_ill_formed_in_repeatCheck :
    (Instr.tickWaiting false).wellFormedIn .repeatCheck = false := by decide
theorem test_repeatCheck_arm_ill_formed_in_delaying :
    (Instr.tickRepeatCheck true).wellFormedIn .delaying = false := by decide
theorem test_phase_word_without_tick_ill_formed :
    (InWord.phaseStim 0b010110).wellFormed = false := by decide
theorem test_zero_bit_count_ill_formed :
    ({ Config.params with bitCount := 0 } : Config.Params).wellFormed = false := by decide
theorem test_seventeen_bit_count_ill_formed :
    ({ Config.params with bitCount := 17 } : Config.Params).wellFormed = false := by decide
theorem test_delay_beyond_counter_ill_formed :
    ({ Config.params with delayThreshold := 255 } : Config.Params).wellFormed = false := by decide
theorem test_timeout_not_below_delay_ill_formed :
    ({ Config.params with timeoutThreshold := 3 } : Config.Params).wellFormed = false := by decide
theorem test_ceiling_beyond_timer_ill_formed :
    ({ Config.params with repeatCeiling := 65536 } : Config.Params).wellFormed = false := by decide
theorem test_query_before_init_ill_formed : initBeforeUse [.nop, .query, .init] = false := by decide
theorem test_init_first_well_formed : initBeforeUse [.nop, .init, .tick true] = true := by decide

/-! ### Decoding, words of R72 and R74 written out bit by bit -/

theorem test_decode_init : decode (.stim 0b1000) = .ok .init := by decide
theorem test_decode_init_dominates : decode (.stim 0b1111) = .ok .init := by decide
theorem test_decode_nop_ignores_ir : decode (.stim 0b0001) = .ok .nop := by decide
theorem test_decode_tick_low : decode (.stim 0b0010) = .ok (.tick false) := by decide
theorem test_decode_tick_high : decode (.stim 0b0011) = .ok (.tick true) := by decide
theorem test_decode_query_ignores_ir : decode (.stim 0b0101) = .ok .query := by decide
theorem test_decode_queryTick : decode (.stim 0b0111) = .ok (.queryTick true) := by decide
theorem test_decode_standby : decode (.phaseStim 0b000011) = .ok (.tickStandby true) := by decide
theorem test_decode_delaying : decode (.phaseStim 0b010010) = .ok (.tickDelaying false) := by decide
theorem test_decode_waiting : decode (.phaseStim 0b100011) = .ok (.tickWaiting true) := by decide
theorem test_decode_repeatCheck :
    decode (.phaseStim 0b110010) = .ok (.tickRepeatCheck false) := by decide
theorem test_decode_rejects_by_name :
    decode (.phaseStim 0b010100) = .error (.notATickArm 0b010100) := by decide
theorem test_encode_canonical : encode (.queryTick false) = .stim 0b0110 := by decide
theorem test_trace_words_P5 :
    traceWords [.op .init 1, .op (.tick true) 1, .op (.tick false) 2, .op .query 1] =
      [.stim 0x8, .stim 0x3, .stim 0x2, .stim 0x2, .stim 0x4] := by decide

/-! ### Single edges -/

/-- V70. -/
theorem test_init_discards :
    recordAfter .init ⟨.waiting, true, true, 0x1C00, 0x0AAA, true, .confirmed, 300, 1, 9⟩ =
      some DecoderState.reset := by decide
/-- V72. -/
theorem test_nop_moves_no_counter :
    recordAfter .nop ⟨.delaying, true, false, 0, 0, false, .none, 3, 2, 13⟩ =
      some ⟨.delaying, true, false, 0, 0, false, .none, 3, 2, 13⟩ := by decide
/-- V2. -/
theorem test_standby_starts_capture :
    recordAfter (.tickStandby true) DecoderState.reset =
      some ⟨.delaying, true, false, 0, 0, false, .none, 1, 0, 13⟩ := by decide
/-- V47. -/
theorem test_tick_at_ceiling_closes_window :
    recordAfter (.tick false) ⟨.standby, false, false, 0, 0x1C35, false, .confirmed, 500, 0, 13⟩ =
      some ⟨.standby, false, false, 0, 0x1C35, false, .none, 500, 0, 13⟩ := by decide
/-- V46. -/
theorem test_tick_reaches_ceiling :
    recordAfter (.tick false) ⟨.standby, false, false, 0, 0x1C35, false, .confirmed, 499, 0, 13⟩ =
      some ⟨.standby, false, false, 0, 0x1C35, false, .confirmed, 500, 0, 13⟩ := by decide
/-- V11. -/
theorem test_delaying_third_tick_stays :
    recordAfter (.tickDelaying false) ⟨.delaying, true, false, 0, 0, false, .none, 3, 2, 13⟩ =
      some ⟨.delaying, false, false, 0, 0, false, .none, 4, 3, 13⟩ := by decide
/-- V14. -/
theorem test_delaying_exits_to_repeatCheck :
    recordAfter (.tickDelaying false) ⟨.delaying, true, false, 0x1C35, 0, false, .none, 82, 3, 0⟩ =
      some ⟨.repeatCheck, false, false, 0x1C35, 0, false, .none, 83, 0, 13⟩ := by decide
/-- V27: the thirteenth change sets bit 0. -/
theorem test_waiting_last_change :
    recordAfter (.tickWaiting true) ⟨.waiting, false, false, 0x1C34, 0, false, .none, 78, 1, 1⟩ =
      some ⟨.delaying, true, false, 0x1C35, 0, false, .none, 79, 0, 0⟩ := by decide
/-- V28. -/
theorem test_waiting_abort :
    recordAfter (.tickWaiting true) ⟨.waiting, true, true, 0x0AAA, 0x1C35, true, .provisional, 400, 2, 3⟩ =
      some ⟨.standby, true, true, 0, 0x1C35, true, .provisional, 401, 0, 13⟩ := by decide
/-- V37: the words differ in the toggle bit only. -/
theorem test_repeatCheck_toggle_is_new_code :
    recordAfter (.tickRepeatCheck false)
        ⟨.repeatCheck, false, false, 0x1435, 0x1C35, false, .confirmed, 380, 0, 13⟩ =
      some ⟨.standby, false, false, 0, 0x1435, true, .provisional, 1, 0, 13⟩ := by decide
/-- V35: unequal while a code is unread, the timer is not reset. -/
theorem test_repeatCheck_discards :
    recordAfter (.tickRepeatCheck false)
        ⟨.repeatCheck, false, true, 0x0AAA, 0x1C35, true, .provisional, 94, 0, 13⟩ =
      some ⟨.standby, false, true, 0, 0x1C35, true, .none, 95, 0, 13⟩ := by decide
/-- V51. -/
theorem test_query_masks_code :
    resultAfter .query ⟨.standby, false, false, 0, 0x1C35, true, .provisional, 1, 0, 13⟩ =
      some (.code 0x0435) := by decide
/-- V55: the code before the repeat. -/
theorem test_query_code_before_repeat :
    resultAfter .query ⟨.standby, false, false, 0, 0x1C35, true, .confirmed, 1, 0, 13⟩ =
      some (.code 0x0435) := by decide
/-- V74: neither code is lost. -/
theorem test_queryTick_delivers_behind_query :
    recordAfter (.queryTick false)
        ⟨.repeatCheck, false, true, 0x0AAA, 0x1C35, true, .provisional, 94, 0, 13⟩ =
      some ⟨.standby, false, true, 0, 0x0AAA, true, .provisional, 1, 0, 13⟩ := by decide
/-- V76: the last edge on which `Repeat` is seen. -/
theorem test_queryTick_result_from_before :
    resultAfter (.queryTick false)
        ⟨.standby, false, false, 0, 0x1C35, false, .confirmed, 500, 0, 13⟩ = some .repeated := by decide
/-- A table word for another phase is placed with that phase and runs at the next edge (log 4). -/
theorem test_step_runs_placed_word :
    (nextState (step (State.reset.withFetchWord 8 0b010010))).map (·.dec.tickCounter) = some 1 := by
  decide
/-- An `INIT` between `q1` and the two steps after it: the query returns the word `INIT` left (R145, R150;
log 9). -/
theorem test_init_inside_software_query :
    runShared softwareParams
        [.micro .clearFirst, .init, .micro .clearFirst, .micro .clearFirst]
        ⟨⟨.standby, false, false, 0, 0x1C35, true, .provisional, 1, 0, 13⟩, .idle⟩ =
      ⟨DecoderState.reset, .returned (.code 0x0000)⟩ := by decide
/-- R84: the shape of FRAME6, and the second bit cell of `FRAME6(0x0AAA)`. -/
theorem test_frame6_shape :
    (frame6Levels 0x0AAA).length = 84 ∧
      ((frame6Levels 0x0AAA).drop 9).take 6 = [false, false, false, true, true, true] := by decide

/-! ### Witnesses: a state and operands that meet a statement's hypotheses, for each of its clauses -/

/-- An idle block whose window has expired. -/
def idleBlock : State := blockWith ⟨.standby, false, true, 0, 0x1C35, false, .none, 500, 0, 13⟩

/-- A block in Delaying with `n` ticks counted and `m` bits to go, nothing captured. -/
def delayingBlock (n : TickCounter) (m : BitIndex) : State :=
  blockWith ⟨.delaying, true, false, 0, 0x1C35, true, .provisional, 9, n, m⟩

/-- A block in Waiting for a level that differs from 0. -/
def waitingBlock (n : TickCounter) (m : BitIndex) : State :=
  blockWith ⟨.waiting, false, false, 0, 0, false, .none, 6, n, m⟩

/-- A block in RepeatCheck holding a capture of `0x0AAA` with `0x1C35` in the buffer. -/
def checkingBlock (unread : Bool) (r : RepeatState) : State :=
  blockWith ⟨.repeatCheck, false, true, 0x0AAA, 0x1C35, unread, r, 94, 0, 13⟩

theorem idleBlock_inv : idleBlock.dec.Inv where
  index_range := by decide
  timer_range := by decide
  accumulator_range := by decide
  buffer_range := by decide
  standby := fun _ => by decide
  delaying := fun h => by cases h
  waiting := fun h => by cases h
  repeatCheck := fun h => by cases h

theorem delayingBlock_inv : (delayingBlock 3 13).dec.Inv where
  index_range := by decide
  timer_range := by decide
  accumulator_range := by decide
  buffer_range := by decide
  standby := fun h => by cases h
  delaying := fun _ => by decide
  waiting := fun h => by cases h
  repeatCheck := fun h => by cases h

theorem witness_StepRunsStimulusAtPorts :
    { idleBlock with pending := [0b0011, 0b0100] }.pending = 0b0011 :: [0b0100] ∧
      idleBlock.pending = [] := by decide
theorem witness_DecodeAndEncodeAgree :
    decode (.stim 0b1111) = .ok .init ∧ decode (.phaseStim 0b110011) = .ok (.tickRepeatCheck true) := by
  decide
theorem witness_PlacedTableWordRunsNext :
    decodeTableWord 8 0b0111 = some (.queryTick true) ∧
      decodeTableWord 8 0b110010 = some (.tickRepeatCheck false) := by decide
theorem witness_RecordAfterReset : ∃ t, exec .init State.powerOn = .next t := ⟨_, rfl⟩
theorem witness_TickAndQueryRefusedBeforeInit :
    State.powerOn.initialised = false ∧ (Instr.tickWaiting true).performsTick = true ∧
      Instr.query.performsQuery = true := by decide
/-- For the statements whose one hypothesis is an initialised block. -/
theorem witness_initialised : idleBlock.initialised = true := by decide
theorem witness_ArmOfAnotherPhaseIsRefused :
    idleBlock.initialised = true ∧ idleBlock.dec.phase ≠ .repeatCheck := by decide
theorem witness_StandbyTickTestsTheLevel :
    idleBlock.initialised = true ∧ idleBlock.dec.phase = .standby := by decide
/-- The boundaries of the three branches: counter 2, 3 and 254, `bitIndex` 0 and 1. -/
theorem witness_DelayingTickCountsThenLeaves :
    (delayingBlock 2 13).initialised = true ∧ (delayingBlock 2 13).dec.phase = .delaying ∧
      (delayingBlock 254 1).dec.tickCounter.toNat < 255 ∧
      (delayingBlock 2 13).dec.tickCounter.toNat + 1 ≤ 3 ∧
      ¬ (delayingBlock 3 0).dec.tickCounter.toNat + 1 ≤ 3 ∧
      (delayingBlock 3 0).dec.bitIndex.toInt < 1 ∧ ¬ (delayingBlock 3 1).dec.bitIndex.toInt < 1 := by
  decide
/-- `bitIndex` at both ends of its range, at 0 and at its most negative value, with a level that
differs. -/
theorem witness_WaitingChangeWritesOneBit :
    (waitingBlock 2 13).initialised = true ∧ (waitingBlock 2 13).dec.phase = .waiting ∧
      true ≠ (waitingBlock 2 13).dec.previousLevel ∧ (waitingBlock 2 13).dec.bitIndex.toNat ≤ 13 ∧
      1 ≤ (waitingBlock 0 1).dec.bitIndex.toNat ∧ (waitingBlock 0 0).dec.phase = .waiting ∧
      (waitingBlock 0 0x80).dec.phase = .waiting := by decide
/-- Counter 1 stays, counters 2 and 254 abort. -/
theorem witness_WaitingTickCountsThenAborts :
    (waitingBlock 1 13).initialised = true ∧ (waitingBlock 1 13).dec.phase = .waiting ∧
      false = (waitingBlock 1 13).dec.previousLevel ∧
      (waitingBlock 254 1).dec.tickCounter.toNat < 255 ∧
      (waitingBlock 1 13).dec.tickCounter.toNat + 1 ≤ 2 ∧
      ¬ (waitingBlock 2 13).dec.tickCounter.toNat + 1 ≤ 2 := by decide
theorem witness_RepeatCheckTickOutcomes_confirmed :
    let s := blockWith ⟨.repeatCheck, false, false, 0x1C35, 0x1C35, true, .provisional, 500, 0, 13⟩
    s.initialised = true ∧ s.dec.phase = .repeatCheck ∧ equalInWindow s.dec := by
  unfold equalInWindow; decide
theorem witness_RepeatCheckTickOutcomes_delivered :
    (checkingBlock false .confirmed).initialised = true ∧
      (checkingBlock false .confirmed).dec.phase = .repeatCheck ∧
      ¬ equalInWindow (checkingBlock false .confirmed).dec ∧
      (checkingBlock false .confirmed).dec.newDataAvailable = false := by
  unfold equalInWindow; decide
theorem witness_RepeatCheckTickOutcomes_discarded :
    (checkingBlock true .none).dec.phase = .repeatCheck ∧
      ¬ equalInWindow (checkingBlock true .none).dec ∧
      (checkingBlock true .none).dec.newDataAvailable = true := by
  unfold equalInWindow; decide
theorem witness_QueryReportsAndConsumes :
    (checkingBlock true .confirmed).dec.newDataAvailable = true ∧
      (checkingBlock false .confirmed).dec.newDataAvailable = false ∧
      (checkingBlock false .confirmed).dec.repeatState = .confirmed ∧
      (checkingBlock false .provisional).dec.repeatState ≠ .confirmed := by decide
theorem witness_ResultPortsShowTheQuery :
    (∃ t, exec .query (checkingBlock true .none) = .next t) ∧
      ∃ t, exec .nop (checkingBlock true .none) = .next t := ⟨⟨_, rfl⟩, ⟨_, rfl⟩⟩
theorem witness_ControlMaskKeepsPayload : (0x1FFF : CodeWord).toNat < 8192 := by decide
theorem witness_QueryRepeatedAtOnce :
    (checkingBlock true .none).initialised = true ∧
      (checkingBlock true .none).dec.newDataAvailable = true ∧
      (checkingBlock false .none).dec.newDataAvailable = false := by decide
theorem witness_StepKeepsRecordInvariant :
    State.Inv { delayingBlock 3 13 with pending := [0b0011] } ∧
      ∃ t, step { delayingBlock 3 13 with pending := [0b0011] } = .next t ∧ t.initialised = true :=
  ⟨fun _ => delayingBlock_inv, _, rfl, rfl⟩
theorem witness_EveryOperationCompletes :
    idleBlock.initialised = true ∧ (Instr.tickStandby true).wellFormedIn idleBlock.dec.phase = true ∧
      Instr.query.wellFormedIn idleBlock.dec.phase = true := by decide
theorem witness_PhaseMovesByTheTable :
    (∃ t, exec .init idleBlock = .next t) ∧ (∃ t, exec (.tick true) idleBlock = .next t) ∧
      ∃ t, exec .query idleBlock = .next t := ⟨⟨_, rfl⟩, ⟨_, rfl⟩, ⟨_, rfl⟩⟩
/-- The three ways to a set flag: delivered by a query's own tick, delivered with no code unread, and left
unread. -/
theorem witness_OnlyDeliveryFillsTheBuffer :
    (∃ t, exec (.queryTick false) (checkingBlock true .none) = .next t ∧
      t.dec.newDataAvailable = true ∧
      t.dec.codeBuffer ≠ (checkingBlock true .none).dec.codeBuffer) ∧
    (∃ t, exec (.tick false) (checkingBlock false .none) = .next t ∧
      t.dec.newDataAvailable = true ∧
      t.dec.codeBuffer ≠ (checkingBlock false .none).dec.codeBuffer) ∧
    ∃ t, exec (.tick false) (checkingBlock true .none) = .next t ∧
      t.dec.newDataAvailable = true ∧
      t.dec.codeBuffer = (checkingBlock true .none).dec.codeBuffer :=
  ⟨⟨_, rfl, by decide, by decide⟩, ⟨_, rfl, by decide, by decide⟩, ⟨_, rfl, by decide, by decide⟩⟩
theorem witness_UnreadCodeSurvivesUntilQueried :
    let ops : List Instr := [.tick true, .nop, .tickStandby true, .tick false]
    (∀ i ∈ ops, i.leavesCodeUnread = true) ∧
      (checkingBlock true .none).initialised = true ∧
      (checkingBlock true .none).dec.newDataAvailable = true ∧
      ∃ t, execAll ops (checkingBlock true .none) = .next t :=
  ⟨by decide, rfl, rfl, _, rfl⟩
theorem witness_EarlierLevelIsNeverRead :
    ∃ t, exec (.tickDelaying false) (delayingBlock 3 1) = .next t := ⟨_, rfl⟩
theorem witness_DelayingStayIsFourTicks :
    (delayingBlock 0 1).initialised = true ∧ (delayingBlock 0 1).dec.phase = .delaying ∧
      (delayingBlock 0 1).dec.tickCounter = 0 ∧ 1 ≤ (delayingBlock 0 1).dec.bitIndex.toInt := by decide
theorem witness_WaitingStayIsAtMostThreeTicks :
    (waitingBlock 0 13).initialised = true ∧ (waitingBlock 0 13).dec.phase = .waiting ∧
      (waitingBlock 0 13).dec.tickCounter = 0 ∧
      (waitingBlock 0 13).dec.previousLevel = false := by decide
/-- For the statements about a whole capture, with changes 5 and 7 ticks apart. -/
theorem witness_AcceptableTimingDeliversTheWord :
    IdleAndEmpty idleBlock ∧ ∀ j < 13, 1 ≤ (if j = 0 then 1 else 3) ∧ (if j = 0 then 1 else 3) ≤ 3 :=
  ⟨⟨rfl, idleBlock_inv, rfl, rfl, rfl⟩, by decide⟩
theorem witness_RepeatWindowAgesWithTicks :
    idleBlock.initialised = true ∧ idleBlock.dec.repeatTimer.toNat ≤ 500 ∧
      noCaptureCompletes [false, true, false] idleBlock.dec := by
  refine ⟨rfl, by decide, ?_, ?_, ?_, trivial⟩ <;> decide
theorem witness_TickMatchesReferenceListing :
    (delayingBlock 3 13).initialised = true ∧ (delayingBlock 3 13).dec.Inv :=
  ⟨rfl, delayingBlock_inv⟩
/-- A run with an `INIT` between two queries, on a block with an unread code. -/
theorem witness_SoftwareVariantAdmitsEveryRun :
    ∃ t, execAll [.queryTick false, .nop, .init, .query] (checkingBlock true .none) = .next t ∧
      queryAnswers [.queryTick false, .nop, .init, .query] (checkingBlock true .none) =
        [.code 0x0435, .noData] := ⟨_, rfl, by decide⟩
/-- For the statements of R147 (a) and (b). -/
theorem witness_ticks_inside_the_software_query :
    (checkingBlock true .none).dec.newDataAvailable = true ∧
      (checkingBlock true .none).dec.phase = .repeatCheck ∧
      ¬ equalInWindow (checkingBlock true .none).dec := by
  unfold equalInWindow; decide
theorem witness_TickBeforeQ4MatchesNoAtomicOrder :
    (checkingBlock false .confirmed).dec.newDataAvailable = false ∧
      (checkingBlock false .confirmed).dec.repeatState = .confirmed ∧
      (checkingBlock false .confirmed).dec.phase = .repeatCheck ∧
      (checkingBlock false .confirmed).dec.codeAccumulator ≠
        (checkingBlock false .confirmed).dec.codeBuffer := by decide

end Sys2Proof.Tests
end

section
/-! SUPPORT. What one `TICK` does to the record as a whole: its post-step with R7's ceiling, its exit phase,
its effect on the flag and the buffer, and what the operations that perform a `TICK` have in common. -/

namespace Sys2Proof.Machine

open Sys2Proof.Claims

/-! ### The post-step -/

/-- R116 with R7's ceiling: the post-step writes the timer and the window's state only. -/
theorem postStep_params (d : DecoderState) : postStep Config.params d = ticked d := by
  rcases postStep_cases Config.params d with ⟨h, e⟩ | ⟨h, e⟩ <;>
    simp only [Config.params_repeatCeiling] at h
  · simp [e, ticked, timerAfter, windowAfter, h]
  · simp [e, ticked, timerAfter, windowAfter, Nat.not_lt.mpr h]

/-- R100 with R7's parameters: sample, arm of the phase at entry, post-step. -/
theorem tick_params (l : Bool) (d : DecoderState) :
    tick Config.params l d = ticked (arm Config.params d.phase (sample l d)) := postStep_params _

section Ticked
variable (d : DecoderState)

@[simp] theorem ticked_phase : (ticked d).phase = d.phase := rfl
@[simp] theorem ticked_level : (ticked d).level = d.level := rfl
@[simp] theorem ticked_previousLevel : (ticked d).previousLevel = d.previousLevel := rfl
@[simp] theorem ticked_codeAccumulator : (ticked d).codeAccumulator = d.codeAccumulator := rfl
@[simp] theorem ticked_codeBuffer : (ticked d).codeBuffer = d.codeBuffer := rfl
@[simp] theorem ticked_newDataAvailable : (ticked d).newDataAvailable = d.newDataAvailable := rfl
@[simp] theorem ticked_repeatState : (ticked d).repeatState = windowAfter d := rfl
@[simp] theorem ticked_repeatTimer : (ticked d).repeatTimer = timerAfter d := rfl
@[simp] theorem ticked_tickCounter : (ticked d).tickCounter = d.tickCounter := rfl
@[simp] theorem ticked_bitIndex : (ticked d).bitIndex = d.bitIndex := rfl

end Ticked

/-- In the range of R37 the timer counts up to its ceiling and stays there (R121). -/
theorem timerAfter_toNat {d : DecoderState} (h : d.repeatTimer.toNat ≤ 500) :
    (timerAfter d).toNat = min (d.repeatTimer.toNat + 1) 500 := by
  unfold timerAfter
  split <;> bv_omega

/-! ### The arms and their steps -/

@[simp] theorem compareStep_phase (d : DecoderState) : (compareStep d).phase = d.phase := by
  rcases compareStep_cases d with ⟨-, e⟩ | ⟨-, -, e⟩ | ⟨-, -, e⟩ <;> rw [e]

@[simp] theorem deliverStep_phase (d : DecoderState) : (deliverStep d).phase = d.phase := by
  rcases deliverStep_cases d with ⟨-, -, e⟩ | ⟨-, e⟩ <;> rw [e]

/-- The capture after the change branch (R107). -/
theorem changeBranch_codeAccumulator (d : DecoderState) :
    (changeBranch d).codeAccumulator =
      if d.level then d.codeAccumulator ||| bitAt (decrementIndex d.bitIndex)
      else d.codeAccumulator := rfl

/-- The exit phase of the arm that the phase at entry selects is the table's (R117). -/
theorem arm_phase (d : DecoderState) : (arm Config.params d.phase d).phase = phaseAfter d.level d := by
  rw [phaseAfter]
  cases hp : d.phase with
  | standby =>
    rcases standbyArm_cases d with ⟨hl, e⟩ | ⟨hl, e⟩ <;> simp [arm, e, hl, hp]
  | delaying =>
    rcases delayingArm_cases Config.params d with ⟨hc, e⟩ | ⟨hc, hb, e⟩ | ⟨hc, hb, e⟩ <;>
      rw [Config.params_delayThreshold] at hc <;> simp only [arm, e]
    · rw [if_pos hc, hp]
    · rw [if_neg (Nat.not_le.mpr hc), if_pos hb]
    · rw [if_neg (Nat.not_le.mpr hc), if_neg (Int.not_lt.mpr hb)]
  | waiting =>
    rcases waitingArm_cases Config.params d with ⟨hl, e⟩ | ⟨hl, hc, e⟩ | ⟨hl, hc, e⟩ <;>
      simp only [arm, e]
    · rw [if_pos hl, changeBranch_phase]
    · rw [Config.params_timeoutThreshold] at hc
      rw [if_neg (not_not.mpr hl), if_pos hc, hp]
    · rw [Config.params_timeoutThreshold] at hc
      rw [if_neg (not_not.mpr hl), if_neg (Nat.not_le.mpr hc), abort_phase]
  | repeatCheck => exact finishStep_phase _

/-! ### One tick on the record -/

/-- The latched level is overwritten before any arm can read it (R22, R101). -/
theorem tick_setLevel (p : Config.Params) (l b : Bool) (d : DecoderState) :
    tick p l { d with level := b } = tick p l d := rfl

/-- The exit phase of a tick is the table's (R117). -/
theorem tick_phase (l : Bool) (d : DecoderState) :
    (tick Config.params l d).phase = phaseAfter l d := by
  rw [tick_params, ticked_phase]
  exact arm_phase (sample l d)

/-- A tick outside RepeatCheck only ages the timer and the window; the flag and the buffer stand
(R62, R116). -/
theorem tick_result_fields {d : DecoderState} (h : d.phase ≠ .repeatCheck) (l : Bool) :
    (tick Config.params l d).repeatTimer = timerAfter d ∧
      (tick Config.params l d).repeatState = windowAfter d ∧
      (tick Config.params l d).newDataAvailable = d.newDataAvailable ∧
      (tick Config.params l d).codeBuffer = d.codeBuffer := by
  obtain ⟨hbuf, hflag, hwin, htimer⟩ := arm_keeps_result_fields Config.params h (sample l d)
  simp [tick_params, timerAfter, windowAfter, hbuf, hflag, hwin, htimer]

/-- What a tick does to the flag and the buffer: nothing, or a delivery (R26, R41, R62, R113). -/
theorem tick_delivery_cases (l : Bool) (d : DecoderState) :
    ((tick Config.params l d).newDataAvailable = d.newDataAvailable ∧
      (tick Config.params l d).codeBuffer = d.codeBuffer) ∨
    (d.phase = .repeatCheck ∧ d.newDataAvailable = false ∧
      (tick Config.params l d).newDataAvailable = true ∧
      (tick Config.params l d).codeBuffer = d.codeAccumulator ∧
      (tick Config.params l d).repeatState = .provisional ∧
      (tick Config.params l d).repeatTimer = 1) := by
  by_cases hp : d.phase = .repeatCheck
  · rw [tick_params, hp]
    rcases repeatCheckArm_cases (sample l d) with ⟨_, e⟩ | ⟨_, hf, e⟩ | ⟨_, _, e⟩
    · exact .inl (by simp [arm, e])
    · exact .inr ⟨rfl, hf, by simp [arm, e, windowAfter, timerAfter]⟩
    · exact .inl (by simp [arm, e])
  · obtain ⟨-, -, hflag, hbuf⟩ := tick_result_fields hp l
    exact .inl ⟨hflag, hbuf⟩

/-- The repeat timer and the window over ticks of which none finds RepeatCheck (R121, R122), by induction on
the ticks. -/
theorem ticks_age_window {ls : List Bool} {d : DecoderState} (h : d.repeatTimer.toNat ≤ 500)
    (hls : noCaptureCompletes ls d) :
    (ticks Config.params ls d).repeatTimer.toNat = min (d.repeatTimer.toNat + ls.length) 500 ∧
      (ticks Config.params ls d).repeatState =
        (if d.repeatTimer.toNat + ls.length ≤ 500 then d.repeatState else .none) ∧
      (ticks Config.params ls d).newDataAvailable = d.newDataAvailable ∧
      (ticks Config.params ls d).codeBuffer = d.codeBuffer := by
  induction ls generalizing d with
  | nil => simp [ticks, h]
  | cons l ls ih =>
    obtain ⟨hp, hrest⟩ := hls
    obtain ⟨htimer, hwin, hflag, hbuf⟩ := tick_result_fields hp l
    have hnat : (tick Config.params l d).repeatTimer.toNat = min (d.repeatTimer.toNat + 1) 500 := by
      rw [htimer, timerAfter_toNat h]
    obtain ⟨itimer, iwin, iflag, ibuf⟩ := ih (by omega) hrest
    have hcons : ticks Config.params (l :: ls) d =
        ticks Config.params ls (tick Config.params l d) := rfl
    rw [hcons, itimer, iwin, iflag, ibuf, hnat, hwin, hflag, hbuf, List.length_cons]
    refine ⟨by omega, ?_, rfl, rfl⟩
    unfold windowAfter
    by_cases hle : d.repeatTimer.toNat + (ls.length + 1) ≤ 500
    · rw [if_pos hle, if_pos (by omega), if_pos (by omega)]
    · rw [if_neg hle, ite_eq_right_iff]
      exact fun _ => if_neg (by omega)

/-! ### The operations that perform a tick -/

/-- The sub-operation of the phase held has the outcome of `TICK` (R74, R119). -/
theorem exec_armOf (s : State) (l : Bool) :
    exec (Instr.armOf s.dec.phase l) s = exec (.tick l) s := by
  cases h : s.dec.phase <;> exact runArm_eq_execTick h l

/-- What is true of `TICK(l)` and of its sub-operations as operations. -/
theorem tickOperation_facts {i : Instr} {ph : Phase} {l : Bool} (h : i = .tick l ∨ i = Instr.armOf ph l) :
    i ≠ .init ∧ i.performsTick = true ∧ i.performsQuery = false ∧ levelOperand i = l := by
  rcases h with rfl | rfl
  · exact ⟨nofun, rfl, rfl, rfl⟩
  · cases ph <;> exact ⟨nofun, rfl, rfl, rfl⟩

/-- An initialised block completes every level string, the empty one too, with the record of `ticks`. -/
theorem execAll_tickOps_dec {s : State} (h : s.initialised = true) (ls : List Bool) :
    ∃ t, execAll (tickOps ls) s = .next t ∧ t.dec = ticks Config.params ls s.dec := by
  cases ls with
  | nil => exact ⟨s, rfl, rfl⟩
  | cons l ls => exact ⟨_, execAll_tickOps h l ls, rfl⟩

end Sys2Proof.Machine
end

section
/-! SUPPORT. The invariants of R35 to R39: each part of an operation keeps them, one lemma per part. -/

namespace Sys2Proof.Machine

open Sys2Proof.Claims

/-- The record after reset meets the invariants (R43). -/
theorem reset_inv : DecoderState.reset.Inv where
  index_range := by decide
  timer_range := by decide
  accumulator_range := by decide
  buffer_range := by decide
  standby := fun _ => by decide
  delaying := nofun
  waiting := nofun
  repeatCheck := nofun

/-- No invariant speaks of the latched level. -/
theorem sample_inv {d : DecoderState} (h : d.Inv) (l : Bool) : (sample l d).Inv := { h with }

/-- No invariant speaks of the flag, the one field a query writes. -/
theorem queryEffect_inv {d : DecoderState} (h : d.Inv) : (queryEffect d).Inv := by
  rw [queryEffect_eq]
  exact { h with }

/-- The post-step keeps the timer at or below its ceiling (R37). -/
theorem ticked_inv {d : DecoderState} (h : d.Inv) : (ticked d).Inv :=
  { h with
    timer_range := by
      rw [ticked_repeatTimer, timerAfter_toNat h.timer_range]
      exact Nat.min_le_right _ _ }

/-- The Standby arm hands an empty capture to Delaying. -/
theorem standbyArm_inv {d : DecoderState} (h : d.Inv) (hp : d.phase = .standby) :
    (standbyArm d).Inv := by
  obtain ⟨hcount, -, hacc⟩ := h.standby hp
  rcases standbyArm_cases d with ⟨_, e⟩ | ⟨_, e⟩ <;> rw [e]
  · exact { h with
      standby := nofun
      delaying := fun _ => ⟨by simp [hcount], fun _ => hacc, by simp [hacc]⟩
      waiting := nofun
      repeatCheck := nofun }
  · exact h

/-- The Delaying arm counts to the threshold, reloads `bitIndex` when no bit is left, and enters Waiting
only with a bit left. -/
theorem delayingArm_inv {d : DecoderState} (h : d.Inv) (hp : d.phase = .delaying) :
    (delayingArm Config.params d).Inv := by
  obtain ⟨-, hempty, hlow⟩ := h.delaying hp
  rcases delayingArm_cases Config.params d with ⟨hc, e⟩ | ⟨-, -, e⟩ | ⟨-, hb, e⟩ <;> rw [e]
  · rw [Config.params_delayThreshold] at hc
    exact { h with
      standby := fun h' => by simp [hp] at h'
      delaying := fun _ => ⟨by bv_omega, hempty, hlow⟩
      waiting := fun h' => by simp [hp] at h'
      repeatCheck := fun h' => by simp [hp] at h' }
  · exact { h with
      index_range := by simp
      standby := nofun
      delaying := nofun
      waiting := nofun
      repeatCheck := fun _ => ⟨rfl, bitCountIndex_params⟩ }
  · have hleft : 1 ≤ d.bitIndex.toNat := by
      have := toInt_lt_one_iff h.index_range
      omega
    exact { h with
      standby := nofun
      delaying := nofun
      waiting := fun _ => ⟨by simp, hleft, hlow⟩
      repeatCheck := nofun }

/-- An aborted capture leaves what Standby starts from (R110). -/
theorem abort_inv {d : DecoderState} (h : d.Inv) : (abort Config.params d).Inv :=
  { h with
    index_range := by simp
    accumulator_range := by simp
    standby := fun _ => ⟨rfl, bitCountIndex_params, rfl⟩
    delaying := nofun
    waiting := nofun
    repeatCheck := nofun }

/-- The bit written by the change branch is the new `bitIndex`, so the positions below it are still
clear (R39, R107). -/
theorem changeBranch_inv {d : DecoderState} (h : d.Inv) (hp : d.phase = .waiting) :
    (changeBranch d).Inv := by
  obtain ⟨-, hleft, hlow⟩ := h.waiting hp
  have hidx : (decrementIndex d.bitIndex).toNat = d.bitIndex.toNat - 1 :=
    decrementIndex_toNat hleft h.index_range
  have hrange := h.index_range
  exact { h with
    index_range := by rw [changeBranch_bitIndex]; omega
    accumulator_range := by
      rw [changeBranch_codeAccumulator]
      split
      · exact or_bitAt_lt h.accumulator_range (by omega)
      · exact h.accumulator_range
    standby := nofun
    delaying := fun _ => by
      refine ⟨by simp, fun h13 => ?_, fun n hn => ?_⟩
      · rw [changeBranch_bitIndex] at h13
        rw [h13] at hidx
        bv_omega
      · rw [changeBranch_bitIndex] at hn
        have hd : d.codeAccumulator.getLsbD n = false := hlow n (by omega)
        have hb : (bitAt (decrementIndex d.bitIndex)).getLsbD n = false := by
          rw [bitAt_getLsbD (by omega)]
          exact decide_eq_false (by omega)
        rw [changeBranch_codeAccumulator]
        split <;> simp [hd, hb]
    waiting := nofun
    repeatCheck := nofun }

/-- The Waiting arm writes one bit, counts, or aborts. -/
theorem waitingArm_inv {d : DecoderState} (h : d.Inv) (hp : d.phase = .waiting) :
    (waitingArm Config.params d).Inv := by
  obtain ⟨-, hleft, hlow⟩ := h.waiting hp
  rcases waitingArm_cases Config.params d with ⟨-, e⟩ | ⟨-, hc, e⟩ | ⟨-, -, e⟩ <;> rw [e]
  · exact changeBranch_inv h hp
  · rw [Config.params_timeoutThreshold] at hc
    exact { h with
      standby := fun h' => by simp [hp] at h'
      delaying := fun h' => by simp [hp] at h'
      waiting := fun _ => ⟨by bv_omega, hleft, hlow⟩
      repeatCheck := fun h' => by simp [hp] at h' }
  · exact abort_inv h

/-- The compare step writes the timer and the window's state only (R112). -/
theorem compareStep_inv {d : DecoderState} (h : d.Inv) : (compareStep d).Inv := by
  rcases compareStep_cases d with ⟨-, e⟩ | ⟨-, -, e⟩ | ⟨-, -, e⟩ <;> rw [e]
  · exact h
  · exact { h with timer_range := by simp }
  · exact { h with }

/-- What the deliver step puts into the buffer is a capture in the range of R38. -/
theorem deliverStep_inv {d : DecoderState} (h : d.Inv) : (deliverStep d).Inv := by
  rcases deliverStep_cases d with ⟨-, -, e⟩ | ⟨-, e⟩ <;> rw [e]
  · exact { h with
      timer_range := by simp
      buffer_range := h.accumulator_range }
  · exact h

/-- The finish step leaves what Standby starts from (R114). -/
theorem finishStep_inv {d : DecoderState} (h : d.Inv) (hp : d.phase = .repeatCheck) :
    (finishStep d).Inv := by
  obtain ⟨hcount, hidx⟩ := h.repeatCheck hp
  exact { h with
    accumulator_range := by simp
    standby := fun _ => ⟨hcount, hidx, rfl⟩
    delaying := nofun
    waiting := nofun
    repeatCheck := nofun }

/-- The RepeatCheck arm: each of its three steps keeps the invariants (R111). -/
theorem repeatCheckArm_inv {d : DecoderState} (h : d.Inv) (hp : d.phase = .repeatCheck) :
    (repeatCheckArm d).Inv :=
  finishStep_inv (deliverStep_inv (compareStep_inv h)) (by simp [hp])

/-- `TICK` keeps the invariants, whatever the level. -/
theorem tick_inv {d : DecoderState} (h : d.Inv) (l : Bool) : (tick Config.params l d).Inv := by
  rw [tick_params]
  refine ticked_inv ?_
  cases hp : d.phase with
  | standby => exact standbyArm_inv (sample_inv h l) hp
  | delaying => exact delayingArm_inv (sample_inv h l) hp
  | waiting => exact waitingArm_inv (sample_inv h l) hp
  | repeatCheck => exact repeatCheckArm_inv (sample_inv h l) hp

/-- Every operation keeps the state invariant; a form of `TICK` or `QUERY` that completes finds the block
initialised (R181). -/
theorem exec_inv {i : Instr} {s t : State} (hs : s.Inv) (h : exec i s = .next t) : t.Inv := by
  rcases exec_next_cases h with ⟨-, rfl⟩ | ⟨-, rfl⟩ | ⟨hi, -, rfl⟩ | ⟨l, hi, -, rfl⟩ | ⟨l, hi, -, rfl⟩
  · exact fun _ => reset_inv
  · exact hs
  · exact fun _ => queryEffect_inv (hs hi)
  · exact fun _ => tick_inv (queryEffect_inv (hs hi)) l
  · exact fun _ => tick_inv (hs hi) l

end Sys2Proof.Machine
end

section
/-! The statements about the state record (spec/10_state.md), settled. -/

namespace Sys2Proof.Proofs

open Sys2Proof.Machine Sys2Proof.Claims

/-- Settles O23: a step is an operation on a state that differs in no field of the record. -/
theorem stepKeepsRecordInvariant : Obligations.StepKeepsRecordInvariant := by
  intro s t hs h
  exact exec_inv (s := passEdge s) hs h

/-- Settles O26, by the operation performed. -/
theorem phaseMovesByTheTable : Obligations.PhaseMovesByTheTable := by
  intro i s t h
  rcases exec_next_cases h with
    ⟨rfl, rfl⟩ | ⟨rfl, rfl⟩ | ⟨-, rfl, rfl⟩ | ⟨l, -, rfl, rfl⟩ | ⟨l, -, hi, rfl⟩
  · rfl
  · rfl
  · simp [queryEffect_eq, Instr.performsTick]
  · rw [State.afterEdge_dec, tick_phase, queryEffect_eq]
    rfl
  · obtain ⟨hinit, htick, -, hl⟩ := tickOperation_facts hi
    simp [hinit, htick, hl, tick_phase]

/-- Settles O27: whatever is not a delivery leaves the flag and the buffer, or clears the flag. -/
theorem onlyDeliveryFillsTheBuffer : Obligations.OnlyDeliveryFillsTheBuffer := by
  intro i s t h
  rcases exec_next_cases h with
    ⟨rfl, rfl⟩ | ⟨rfl, rfl⟩ | ⟨-, rfl, rfl⟩ | ⟨l, -, rfl, rfl⟩ | ⟨l, -, hi, rfl⟩
  · exact ⟨nofun, fun _ => .inl rfl⟩
  · exact ⟨fun hf => .inl ⟨hf, rfl, rfl⟩, fun hne => absurd rfl hne⟩
  · simp [queryEffect_eq]
  · rw [State.afterEdge_dec, queryEffect_eq]
    rcases tick_delivery_cases l { s.dec with newDataAvailable := false } with
      ⟨hflag, hbuf⟩ | ⟨hp, -, hflag, hdelivered⟩
    · exact ⟨fun hf => absurd (hflag ▸ hf) nofun, fun hne => absurd hbuf hne⟩
    · exact ⟨fun _ => .inr ⟨rfl, hp, .inr rfl, hdelivered⟩, fun _ => .inr hflag⟩
  · obtain ⟨-, htick, hquery, -⟩ := tickOperation_facts hi
    rw [State.afterEdge_dec]
    rcases tick_delivery_cases l s.dec with ⟨hflag, hbuf⟩ | ⟨hp, hunread, hflag, hdelivered⟩
    · exact ⟨fun hf => .inl ⟨hflag ▸ hf, hquery, hbuf⟩, fun hne => absurd hbuf hne⟩
    · exact ⟨fun _ => .inr ⟨htick, hp, .inl hunread, hdelivered⟩, fun _ => .inr hflag⟩

/-- Settles O29: a tick samples before it reads, and no other operation reads the level. -/
theorem earlierLevelIsNeverRead : Obligations.EarlierLevelIsNeverRead := by
  intro i b s t h
  rcases exec_next_cases h with
    ⟨rfl, rfl⟩ | ⟨rfl, rfl⟩ | ⟨hs, rfl, rfl⟩ | ⟨l, hs, rfl, rfl⟩ | ⟨l, hs, hi, rfl⟩
  · exact ⟨_, rfl, rfl⟩
  · exact ⟨_, rfl, rfl⟩
  · exact ⟨_, afterInit_of_initialised hs _, by simp only [queryEffect_eq]; rfl⟩
  · exact ⟨_, afterInit_of_initialised hs _, by simp only [queryEffect_eq]; rfl⟩
  · have hexec : exec i { s with dec := { s.dec with level := b } } =
        exec (.tick l) { s with dec := { s.dec with level := b } } := by
      rcases hi with rfl | rfl
      · rfl
      · exact exec_armOf { s with dec := { s.dec with level := b } } l
    exact ⟨_, hexec.trans (exec_tick_of_initialised hs l), by rw [tick_setLevel]⟩

/-- Settles O34: the run's record is that of its ticks. -/
theorem repeatWindowAgesWithTicks : Obligations.RepeatWindowAgesWithTicks := by
  intro ls s hi h hls
  obtain ⟨t, hrun, hdec⟩ := execAll_tickOps_dec hi ls
  refine ⟨t, hrun, ?_⟩
  rw [hdec]
  exact ticks_age_window h hls

/-- Settles O7: `INIT` writes the record of the reset state, whose fields are then read off. -/
theorem recordAfterReset : Obligations.RecordAfterReset := by
  refine ⟨fun s t h => ?_, by decide⟩
  cases h
  rfl

/-- Settles O24: a fresh block is idle with an empty capture. -/
theorem resetMeetsRecordInvariant : Obligations.ResetMeetsRecordInvariant :=
  ⟨rfl, fun _ => reset_inv, reset_inv⟩

end Sys2Proof.Proofs
end

section
/-! SUPPORT. What a `QUERY` leaves and shows in an initialised block, and what the operations that do not
query leave of an unread code, over one edge and over a run. -/

namespace Sys2Proof.Machine

open Sys2Proof.Claims

/-! ### The query and its result -/

/-- R140 with R79's mask. -/
theorem queryResult_params (d : DecoderState) : queryResult Config.params d = queryAnswer d := rfl

@[simp] theorem queryEffect_newDataAvailable (d : DecoderState) :
    (queryEffect d).newDataAvailable = false := by rw [queryEffect_eq]

/-- Where no code is unread a query changes no field (R142, R143). -/
theorem queryEffect_of_read {d : DecoderState} (h : d.newDataAvailable = false) :
    queryEffect d = d := if_neg (by simp [h])

/-- An initialised block runs `QUERY` (R140, R144). -/
theorem exec_query_of_initialised {s : State} (h : s.initialised = true) :
    exec .query s =
      .next (s.afterEdge (queryEffect s.dec) (queryAnswer s.dec)) := by
  rw [← queryResult_params]
  exact afterInit_of_initialised h _

/-- A pending code comes first (R141). -/
theorem queryAnswer_of_unread {d : DecoderState} (h : d.newDataAvailable = true) :
    queryAnswer d = .code (d.codeBuffer &&& 0x07FF) := if_pos h

/-- Without a pending code the result is the repeat or no data (R142, R143). -/
theorem queryAnswer_of_read {d : DecoderState} (h : d.newDataAvailable = false) :
    queryAnswer d = if d.repeatState = .confirmed then .repeated else .noData :=
  if_neg (by simp [h])

/-- A code is returned only where one is pending (R140). -/
theorem queryAnswer_ne_code {d : DecoderState} (h : d.newDataAvailable = false) (v : CodeWord) :
    queryAnswer d ≠ .code v := by
  rw [queryAnswer_of_read h]
  split <;> exact nofun

/-! ### An unread code -/

/-- No tick touches an unread code: a delivery needs the flag down (R62, R113). -/
theorem tick_keeps_unread_code {d : DecoderState} (h : d.newDataAvailable = true) (l : Bool) :
    (tick Config.params l d).newDataAvailable = true ∧
      (tick Config.params l d).codeBuffer = d.codeBuffer := by
  rcases tick_delivery_cases l d with ⟨hflag, hbuf⟩ | ⟨-, hread, -⟩
  · exact ⟨hflag.trans h, hbuf⟩
  · exact absurd (h.symm.trans hread) nofun

/-- An operation that neither resets nor queries leaves an unread code as it was. -/
theorem exec_keeps_unread_code {i : Instr} {s t : State} (h : exec i s = .next t)
    (hi : i.leavesCodeUnread = true) (hs : s.dec.newDataAvailable = true) :
    t.initialised = s.initialised ∧ t.dec.newDataAvailable = true ∧
      t.dec.codeBuffer = s.dec.codeBuffer := by
  rcases exec_next_cases h with
    ⟨rfl, -⟩ | ⟨-, rfl⟩ | ⟨-, rfl, -⟩ | ⟨l, -, rfl, -⟩ | ⟨l, -, -, rfl⟩
  · exact absurd hi nofun
  · exact ⟨rfl, hs, rfl⟩
  · exact absurd hi nofun
  · exact absurd hi nofun
  · exact ⟨rfl, tick_keeps_unread_code hs l⟩

/-- A run that completes is its first operation and then a run that completes. -/
theorem execAll_cons_next {i : Instr} {is : List Instr} {s t : State}
    (h : execAll (i :: is) s = .next t) : ∃ u, exec i s = .next u ∧ execAll is u = .next t := by
  rw [execAll] at h
  cases hx : exec i s with
  | next u => rw [hx] at h; exact ⟨u, rfl, h⟩
  | fault r => cases r
  | refused r => rw [hx] at h; cases h

/-- The results of a run whose first operation completes. -/
theorem queryAnswers_cons {i : Instr} {s u : State} (h : exec i s = .next u) (is : List Instr) :
    queryAnswers (i :: is) s =
      (if i.performsQuery then [u.result] else []) ++ queryAnswers is u := by
  rw [queryAnswers, h]

/-- Any number of operations that neither reset nor query leave an unread code as it was (R187), by
induction on the run. -/
theorem execAll_keeps_unread_code {ops : List Instr} {s t : State} (h : execAll ops s = .next t)
    (hops : ∀ i ∈ ops, i.leavesCodeUnread = true) (hs : s.dec.newDataAvailable = true) :
    t.initialised = s.initialised ∧ t.dec.newDataAvailable = true ∧
      t.dec.codeBuffer = s.dec.codeBuffer := by
  induction ops generalizing s with
  | nil => cases h; exact ⟨rfl, hs, rfl⟩
  | cons i ops ih =>
    obtain ⟨u, hu, hrest⟩ := execAll_cons_next h
    obtain ⟨hiff, hi⟩ := List.forall_mem_cons.mp hops
    obtain ⟨uinit, uflag, ubuf⟩ := exec_keeps_unread_code hu hiff hs
    obtain ⟨tinit, tflag, tbuf⟩ := ih hrest hi uflag
    exact ⟨tinit.trans uinit, tflag, tbuf.trans ubuf⟩

end Sys2Proof.Machine
end

section
/-! SUPPORT. The query of the software variant: its micro-steps, the query they make when nothing falls
between them (R145), and how the variant runs each operation of the hardware (R57). -/

namespace Sys2Proof.Machine

open Sys2Proof.Claims

/-! ### Micro-steps -/

/-- No query is in flight: none was made yet, or the last one has returned. -/
def Consumer.BetweenQueries (c : Consumer) : Prop := c = .idle ∨ ∃ r, c = .returned r

/-- With `QUERY_ATOMIC` a micro-step is the whole query (R57). -/
theorem microStep_of_atomic {p : Config.Params} (h : p.queryAtomic = true) (order : ReadOrder)
    (s : Shared) :
    microStep p order s = ⟨queryEffect s.block, .returned (queryResult p s.block)⟩ := if_pos h

/-- The first micro-step of a query is `q1`. -/
theorem microStep_of_betweenQueries {c : Consumer} (hc : c.BetweenQueries) (order : ReadOrder)
    (d : DecoderState) :
    microStep softwareParams order ⟨d, c⟩ = ⟨d, .sawFlag d.newDataAvailable⟩ := by
  rcases hc with rfl | ⟨r, rfl⟩ <;> rfl

/-- After a clear flag the query returns with `q4`. -/
theorem microStep_of_sawClear {d : DecoderState} (h : d.newDataAvailable = false)
    (order : ReadOrder) :
    microStep softwareParams order ⟨d, .sawFlag false⟩ =
      ⟨queryEffect d, .returned (queryAnswer d)⟩ := by
  rw [queryAnswer_of_read h, queryEffect_of_read h]
  rfl

/-- After a set flag `q2` and `q3`, in either order, clear the flag and return the masked buffer. -/
theorem microStep_microStep_of_sawSet (order : ReadOrder) (d : DecoderState) :
    microStep softwareParams order (microStep softwareParams order ⟨d, .sawFlag true⟩) =
      ⟨queryEffect d, .returned (.code (d.codeBuffer &&& 0x07FF))⟩ := by
  rw [queryEffect_eq]
  cases order <;> rfl

/-- After a set flag the first of `q2` and `q3` returns nothing yet. -/
theorem eventAnswer_of_sawSet (order : ReadOrder) (d : DecoderState) :
    eventAnswer softwareParams ⟨d, .sawFlag true⟩ (.micro order) = none := by
  cases order <;> rfl

/-- What the consumer receives where a micro-step returns. -/
theorem eventAnswer_of_returned {p : Config.Params} {order : ReadOrder} {s : Shared}
    {d : DecoderState} {r : QueryResult} (h : microStep p order s = ⟨d, .returned r⟩) :
    eventAnswer p s (.micro order) = some r := by
  rw [eventAnswer, h]

/-- What the consumer receives at `q1`: nothing yet. -/
theorem eventAnswer_of_sawFlag {p : Config.Params} {order : ReadOrder} {s : Shared}
    {d : DecoderState} {f : Bool} (h : microStep p order s = ⟨d, .sawFlag f⟩) :
    eventAnswer p s (.micro order) = none := by
  rw [eventAnswer, h]

@[simp] theorem runShared_nil (p : Config.Params) (s : Shared) : runShared p [] s = s := rfl

@[simp] theorem runShared_cons (p : Config.Params) (e : SharedEvent) (es : List SharedEvent)
    (s : Shared) : runShared p (e :: es) s = runShared p es (sharedStep p s e) := rfl

@[simp] theorem sharedStep_micro (p : Config.Params) (s : Shared) (order : ReadOrder) :
    sharedStep p s (.micro order) = microStep p order s := rfl

/-! ### The uninterrupted query -/

/-- The micro-steps of a query made on the record, all in one order: three where a code is unread, else
two (R145). -/
def queryMicroSteps (order : ReadOrder) (d : DecoderState) : List SharedEvent :=
  List.replicate (if d.newDataAvailable then 3 else 2) (.micro order)

theorem queryMicroSteps_of_unread {d : DecoderState} (h : d.newDataAvailable = true)
    (order : ReadOrder) :
    queryMicroSteps order d = [.micro order, .micro order, .micro order] := by
  simp [queryMicroSteps, h, List.replicate]

theorem queryMicroSteps_of_read {d : DecoderState} (h : d.newDataAvailable = false)
    (order : ReadOrder) : queryMicroSteps order d = [.micro order, .micro order] := by
  simp [queryMicroSteps, h, List.replicate]

/-- With nothing between them the micro-steps clear the flag and return what the atomic query returns
(R145). -/
theorem runShared_queryMicroSteps {c : Consumer} (hc : c.BetweenQueries) (order : ReadOrder)
    (d : DecoderState) :
    runShared softwareParams (queryMicroSteps order d) ⟨d, c⟩ =
      ⟨queryEffect d, .returned (queryAnswer d)⟩ := by
  cases h : d.newDataAvailable with
  | false =>
    simp only [queryMicroSteps_of_read h, runShared_cons, runShared_nil, sharedStep_micro,
      microStep_of_betweenQueries hc, h, microStep_of_sawClear h]
  | true =>
    simp only [queryMicroSteps_of_unread h, runShared_cons, runShared_nil, sharedStep_micro,
      microStep_of_betweenQueries hc, h, microStep_microStep_of_sawSet, queryAnswer_of_unread h]

/-- With nothing between them the micro-steps hand over exactly the atomic query's result. -/
theorem sharedAnswers_queryMicroSteps {c : Consumer} (hc : c.BetweenQueries) (order : ReadOrder)
    (d : DecoderState) :
    sharedAnswers softwareParams (queryMicroSteps order d) ⟨d, c⟩ = [queryAnswer d] := by
  have hq1 := microStep_of_betweenQueries hc order d
  cases h : d.newDataAvailable with
  | false =>
    rw [h] at hq1
    have hq4 := microStep_of_sawClear h order
    simp [queryMicroSteps_of_read h, sharedAnswers, hq1, eventAnswer_of_sawFlag hq1,
      eventAnswer_of_returned hq4]
  | true =>
    rw [h] at hq1
    have hq23 := microStep_microStep_of_sawSet order d
    simp [queryMicroSteps_of_unread h, sharedAnswers, hq1, eventAnswer_of_sawFlag hq1,
      eventAnswer_of_sawSet, eventAnswer_of_returned hq23, queryAnswer_of_unread h]

/-! ### Runs of the software variant between queries -/

/-- The events, their micro-steps all in one order, take the software variant from the record `d` with no
query in flight to the record `d'` with none in flight, and the consumer receives `rs`. -/
structure SoftwareRun (order : ReadOrder) (es : List SharedEvent) (d d' : DecoderState)
    (rs : List QueryResult) : Prop where
  micro_order : ∀ o : ReadOrder, SharedEvent.micro o ∈ es → o = order
  runs : ∀ c : Consumer, c.BetweenQueries → ∃ c' : Consumer, c'.BetweenQueries ∧
    runShared softwareParams es ⟨d, c⟩ = ⟨d', c'⟩ ∧ sharedAnswers softwareParams es ⟨d, c⟩ = rs

namespace SoftwareRun

variable {order : ReadOrder} {es fs : List SharedEvent} {d d' d'' : DecoderState}
  {rs rs' : List QueryResult}

theorem nil : SoftwareRun order [] d d [] :=
  ⟨nofun, fun c hc => ⟨c, hc, rfl, rfl⟩⟩

/-- Runs compose, since each ends with no query in flight. -/
theorem append (h : SoftwareRun order es d d' rs) (h' : SoftwareRun order fs d' d'' rs') :
    SoftwareRun order (es ++ fs) d d'' (rs ++ rs') where
  micro_order o ho := (List.mem_append.mp ho).elim (h.micro_order o) (h'.micro_order o)
  runs c hc := by
    obtain ⟨c₁, hc₁, hrun, hans⟩ := h.runs c hc
    obtain ⟨c₂, hc₂, hrun', hans'⟩ := h'.runs c₁ hc₁
    exact ⟨c₂, hc₂, by rw [runShared_append, hrun, hrun'],
      by rw [sharedAnswers_append, hans, hrun, hans']⟩

/-- `INIT` is one event (R150). -/
theorem init (d : DecoderState) : SoftwareRun order [.init] d DecoderState.reset [] :=
  ⟨by simp, fun c hc => ⟨c, hc, rfl, rfl⟩⟩

/-- `NOP` is one event (R151). -/
theorem nop (d : DecoderState) : SoftwareRun order [.nop] d d [] :=
  ⟨by simp, fun c hc => ⟨c, hc, rfl, rfl⟩⟩

/-- `TICK` is one event (R145). -/
theorem tick (l : Bool) (d : DecoderState) :
    SoftwareRun order [.tick l] d (Machine.tick Config.params l d) [] :=
  ⟨by simp, fun c hc => ⟨c, hc, rfl, rfl⟩⟩

/-- `QUERY` is its uninterrupted micro-steps (R145). -/
theorem query (d : DecoderState) :
    SoftwareRun order (queryMicroSteps order d) d (queryEffect d) [queryAnswer d] where
  micro_order _ ho := SharedEvent.micro.inj (List.eq_of_mem_replicate ho)
  runs _ hc := ⟨.returned (queryAnswer d), .inr ⟨_, rfl⟩,
    runShared_queryMicroSteps hc order d, sharedAnswers_queryMicroSteps hc order d⟩

end SoftwareRun

/-- One operation of the hardware as a run of the software variant (R57). -/
theorem exec_softwareRun {i : Instr} {s t : State} (h : exec i s = .next t) (order : ReadOrder) :
    ∃ es, SoftwareRun order es s.dec t.dec (if i.performsQuery then [t.result] else []) := by
  rcases exec_next_cases h with
    ⟨rfl, rfl⟩ | ⟨rfl, rfl⟩ | ⟨-, rfl, rfl⟩ | ⟨l, -, rfl, rfl⟩ | ⟨l, -, hi, rfl⟩
  · exact ⟨_, .init s.dec⟩
  · exact ⟨_, .nop s.dec⟩
  · exact ⟨_, .query s.dec⟩
  · exact ⟨_, (SoftwareRun.query s.dec).append (.tick l _)⟩
  · obtain ⟨-, -, hquery, -⟩ := tickOperation_facts hi
    rw [hquery]
    exact ⟨_, .tick l s.dec⟩

/-- A run of the hardware as a run of the software variant (R57), by induction on the operations. -/
theorem execAll_softwareRun {ops : List Instr} {s t : State} (h : execAll ops s = .next t)
    (order : ReadOrder) : ∃ es, SoftwareRun order es s.dec t.dec (queryAnswers ops s) := by
  induction ops generalizing s with
  | nil => cases h; exact ⟨[], .nil⟩
  | cons i ops ih =>
    obtain ⟨u, hu, hrest⟩ := execAll_cons_next h
    obtain ⟨es, hes⟩ := exec_softwareRun hu order
    obtain ⟨fs, hfs⟩ := ih hrest
    rw [queryAnswers_cons hu]
    exact ⟨es ++ fs, hes.append hfs⟩

end Sys2Proof.Machine
end

section
/-! The statements about what the accessor reads (spec/20_memory.md), settled. -/

namespace Sys2Proof.Proofs

open Sys2Proof.Machine Sys2Proof.Claims

/-- Settles O39: from no query in flight, operation by operation. -/
theorem softwareVariantAdmitsEveryRun : Obligations.SoftwareVariantAdmitsEveryRun := by
  intro order ops s t h
  obtain ⟨es, hes⟩ := execAll_softwareRun h order
  obtain ⟨_, -, hrun, hanswers⟩ := hes.runs .idle (.inl rfl)
  exact ⟨es, hes.micro_order, by rw [hrun], hanswers⟩

/-- Settles O28: the run leaves the code unread and the block initialised, so `QUERY` returns it. -/
theorem unreadCodeSurvivesUntilQueried : Obligations.UnreadCodeSurvivesUntilQueried := by
  intro ops s t hinit hflag hops h
  obtain ⟨tinit, tflag, tbuf⟩ := execAll_keeps_unread_code h hops hflag
  refine ⟨tflag, tbuf, ?_⟩
  rw [exec_query_of_initialised (tinit.trans hinit), queryAnswer_of_unread tflag, tbuf,
    queryEffect_eq]
  rfl

/-- Settles O22: the first query leaves the flag down, and a query that finds it down neither returns a
code nor changes the record. -/
theorem queryRepeatedAtOnce : Obligations.QueryRepeatedAtOnce := by
  intro s hs
  refine ⟨_, _, exec_query_of_initialised hs, exec_query_of_initialised hs, fun hread => ?_,
    fun _ => queryAnswer_ne_code (queryEffect_newDataAvailable s.dec)⟩
  simp [State.afterEdge, queryEffect_of_read hread]

/-- Settles O38: the software query from idle, and the one event of the atomic one. -/
theorem uninterruptedMicroStepsAreTheQuery : Obligations.UninterruptedMicroStepsAreTheQuery := by
  intro order d
  rw [← queryEffect_eq]
  exact ⟨runShared_queryMicroSteps (.inl rfl) order d,
    microStep_of_atomic Config.params_queryAtomic order ⟨d, .idle⟩⟩

end Sys2Proof.Proofs
end

section
/-! SUPPORT. The two word formats and how a word reaches the block (spec/30_encoding.md R71 to R74): which
words are well formed, what each format decodes to, and what a placed word makes the next edge do. -/

namespace Sys2Proof

/-! ### The words of the two formats -/

/-- The operation of every `STIM` word by its four ports, in the priority of R72. -/
theorem decodeStim_eq (w : Stim) :
    decodeStim w =
      if w.getLsbD 3 then .init
      else if w.getLsbD 2 then
        (if w.getLsbD 1 then .queryTick (w.getLsbD 0) else .query)
      else if w.getLsbD 1 then .tick (w.getLsbD 0) else .nop := by
  revert w
  decide

/-- Up to its ignored bits, a `STIM` word is the encoding of what it decodes to (R72, R83). -/
theorem encode_decodeStim (w : Stim) : encode (decodeStim w) = canonical (.stim w) := by
  revert w
  decide

/-- A `PHASE_STIM` word is well formed exactly where it is the word of an arm (R74): that of the phase in
its upper two bits and of the level in bit 0. -/
theorem phaseStim_wellFormed_iff (w : PhaseStim) :
    (InWord.phaseStim w).wellFormed = true ↔
      w = armWord (phaseOfBits (w.extractLsb' 4 2)) (w.getLsbD 0) := by
  revert w
  decide

/-- A `PHASE_STIM` word that is not well formed is rejected by name (R74). -/
theorem decodePhaseStim_of_not_wellFormed {w : PhaseStim}
    (h : (InWord.phaseStim w).wellFormed = false) :
    decodePhaseStim w = .error (.notATickArm w) := by
  revert w
  decide

theorem decodePhaseStim_armWord (ph : Phase) (l : Bool) :
    decodePhaseStim (armWord ph l) = .ok (Instr.armOf ph l) := by
  cases ph <;> revert l <;> decide

theorem encode_armOf (ph : Phase) (l : Bool) :
    encode (Instr.armOf ph l) = .phaseStim (armWord ph l) := by
  cases ph <;> rfl

/-- The words of format `PHASE_STIM` that decode are the words of the arms (R74). -/
theorem decodePhaseStim_eq_ok_iff {w : PhaseStim} {i : Instr} :
    decodePhaseStim w = .ok i ↔ ∃ ph l, w = armWord ph l ∧ i = Instr.armOf ph l := by
  constructor
  · intro h
    cases hw : (InWord.phaseStim w).wellFormed with
    | false => exact absurd ((decodePhaseStim_of_not_wellFormed hw).symm.trans h) nofun
    | true =>
      have harm := (phaseStim_wellFormed_iff w).mp hw
      rw [harm, decodePhaseStim_armWord] at h
      exact ⟨_, _, harm, (Except.ok.inj h).symm⟩
  · rintro ⟨ph, l, rfl, rfl⟩
    exact decodePhaseStim_armWord ph l

/-! ### Both formats -/

/-- Decoding inverts encoding (R72, R74). -/
theorem decode_encode (i : Instr) : decode (encode i) = .ok i := by
  cases i with
  | init => decide
  | nop => decide
  | tick l => revert l; decide
  | tickStandby l => exact decodePhaseStim_armWord .standby l
  | tickDelaying l => exact decodePhaseStim_armWord .delaying l
  | tickWaiting l => exact decodePhaseStim_armWord .waiting l
  | tickRepeatCheck l => exact decodePhaseStim_armWord .repeatCheck l
  | query => decide
  | queryTick l => revert l; decide

/-- A word decodes exactly where it is well formed. -/
theorem exists_decode_eq_ok_iff (w : InWord) : (∃ i, decode w = .ok i) ↔ w.wellFormed = true := by
  cases w with
  | stim w => exact ⟨fun _ => rfl, fun _ => ⟨decodeStim w, rfl⟩⟩
  | phaseStim w =>
    constructor
    · rintro ⟨i, hi⟩
      by_contra hw
      rw [Bool.not_eq_true] at hw
      exact absurd ((decodePhaseStim_of_not_wellFormed hw).symm.trans hi) nofun
    · intro hw
      exact ⟨_, decodePhaseStim_eq_ok_iff.mpr ⟨_, _, (phaseStim_wellFormed_iff w).mp hw, rfl⟩⟩

/-- Encoding inverts decoding up to the ignored bits (R83). -/
theorem encode_of_decode_eq_ok {w : InWord} {i : Instr} (h : decode w = .ok i) :
    encode i = canonical w := by
  cases w with
  | stim w =>
    cases h
    exact encode_decodeStim w
  | phaseStim w =>
    obtain ⟨ph, l, rfl, rfl⟩ := decodePhaseStim_eq_ok_iff.mp h
    exact encode_armOf ph l

/-- A table word that stands for an operation is a word of one of the formats that decodes to it. -/
theorem tableWord_of_decodeTableWord {nbits w : Nat} {i : Instr}
    (h : decodeTableWord nbits w = some i) :
    ∃ word, tableWord nbits w = some word ∧ decode word = .ok i := by
  unfold decodeTableWord at h
  split at h
  · cases h
  · next word hword =>
    refine ⟨word, hword, ?_⟩
    split at h
    · next j hj => exact hj.trans (congrArg _ (Option.some.inj h))
    · cases h

end Sys2Proof

namespace Sys2Proof.Machine

/-! ### Words at the ports -/

/-- An edge at which a word was placed runs the operation of that word (R71, log 1). -/
theorem step_of_pending {s : State} {w : Stim} {rest : List Stim} (h : s.pending = w :: rest) :
    step s = exec (decodeStim w) { s with pending := rest, edge := s.edge + 1 } := by
  simp [step, fetch, stimulus, passEdge, h]

/-- An edge at which nothing was placed runs the operation of the free word (R71, log 1). -/
theorem step_of_no_pending {s : State} (h : s.pending = []) :
    step s = exec (decodeStim (Config.freeStim s.edge)) { s with edge := s.edge + 1 } := by
  obtain ⟨dec, result, initialised, pending, edge⟩ := s
  cases h
  rfl

/-- The word of an arm holds the phase in its upper two bits (R74). -/
theorem phaseOfBits_armWord (ph : Phase) (l : Bool) :
    phaseOfBits ((armWord ph l).extractLsb' 4 2) = ph := by
  cases ph <;> revert l <;> decide

/-- The low four bits of the word of an arm select `TICK` (R74). -/
theorem decodeStim_armWord (ph : Phase) (l : Bool) :
    decodeStim ((armWord ph l).extractLsb' 0 4) = .tick l := by
  cases ph <;> revert l <;> decide

/-- A placed word is the operation of the next edge: a `STIM` word by itself, the word of an arm because it
is `TICK` in the phase it sets (R71, R74, log 4). -/
theorem step_placeWord {word : InWord} {i : Instr} (h : decode word = .ok i) (s : State) :
    step (placeWord s word) =
      exec i { placeWord s word with pending := s.pending, edge := s.edge + 1 } := by
  cases word with
  | stim w =>
    cases h
    exact step_of_pending rfl
  | phaseStim w =>
    obtain ⟨ph, l, rfl, rfl⟩ := decodePhaseStim_eq_ok_iff.mp h
    have hphase := phaseOfBits_armWord ph l
    rw [step_of_pending rfl, decodeStim_armWord, ← exec_armOf]
    simp only [placeWord, hphase]

/-- Placing a table word that stands for an operation makes it the operation of the next edge. -/
theorem step_withFetchWord {nbits w : Nat} {i : Instr} (h : decodeTableWord nbits w = some i)
    (s : State) :
    step (s.withFetchWord nbits w) =
      exec i { s.withFetchWord nbits w with pending := s.pending, edge := s.edge + 1 } := by
  obtain ⟨word, hword, hdecode⟩ := tableWord_of_decodeTableWord h
  have hplace : s.withFetchWord nbits w = placeWord s word := by
    simp only [State.withFetchWord, placeTableWord, hword]
  rw [hplace]
  exact step_placeWord hdecode s

/-- In an initialised block the sub-operation of another phase is refused (R74, R119, log 4). -/
theorem exec_armOf_of_phase_ne {s : State} {ph : Phase} (hs : s.initialised = true)
    (h : s.dec.phase ≠ ph) (l : Bool) : exec (Instr.armOf ph l) s = .refused .armNotSelected := by
  have runArm_refuses (f : DecoderState → DecoderState) :
      runArm ph f l s = .refused .armNotSelected := by
    rw [runArm, afterInit_of_initialised hs, if_neg h]
  cases ph <;> exact runArm_refuses _

end Sys2Proof.Machine
end

section
/-! SUPPORT. Delivery and its ports: the bits the control mask keeps (R79) and what the result ports show
after an operation (R76). -/

namespace Sys2Proof.Machine

open Sys2Proof.Claims

/-- The mask keeps bits 10 to 0 (R79). -/
theorem payload_getLsbD (w : CodeWord) (k : Nat) :
    (payload Config.params w).getLsbD k = (w.getLsbD k && decide (k ≤ 10)) := by
  have hmask : (0x07FF : CodeWord).getLsbD k = decide (k ≤ 10) := by
    by_cases hk : k < 16
    · interval_cases k <;> rfl
    · rw [BitVec.getLsbD_of_ge _ _ (by omega)]
      exact (decide_eq_false (by omega)).symm
  rw [payload, Config.params_controlMask, BitVec.getLsbD_and, hmask]

/-- The delivered value is the address and command fields of R78 under five zeros. -/
theorem payload_eq_fields (w : CodeWord) :
    payload Config.params w = 0#5 ++ addressField w ++ commandField w := by
  refine BitVec.eq_of_getLsbD_eq fun k hk => ?_
  have hfields : (0#5 ++ addressField w ++ commandField w).getLsbD k =
      if k < 6 then (commandField w).getLsbD k
      else if k - 6 < 5 then (addressField w).getLsbD (k - 6) else false := by
    rw [BitVec.getLsbD_append, BitVec.getLsbD_append, BitVec.getLsbD_zero]
  rw [payload_getLsbD]
  refine Eq.trans ?_ hfields.symm
  split
  · next hcommand => simp [commandField, hcommand, show k ≤ 10 by omega]
  · split
    · next h6 h5 => simp [addressField, h5, show k ≤ 10 by omega, show 6 + (k - 6) = k by omega]
    · simp [show ¬ k ≤ 10 by omega]

/-- On words whose bits 15 to 13 are 0 the mask `0xE7FF` gives the same value (R79). -/
theorem payload_eq_and_E7FF {w : CodeWord} (h : w.toNat < 8192) :
    payload Config.params w = w &&& 0xE7FF := by
  refine BitVec.eq_of_getLsbD_eq fun k hk => ?_
  rw [payload_getLsbD, BitVec.getLsbD_and]
  by_cases hhigh : 13 ≤ k
  · have hw : w.getLsbD k = false :=
      Nat.testBit_lt_two_pow (h.trans_le (Nat.pow_le_pow_right (n := 2) (by decide) hhigh))
    simp [hw]
  · have hmask : (0xE7FF : CodeWord).getLsbD k = decide (k ≤ 10) := by
      interval_cases k <;> rfl
    rw [hmask]

/-- What the ports show after an operation: the answer of the query it performs, computed from the record
before the edge, or no data (R76). -/
theorem exec_result {i : Instr} {s t : State} (h : exec i s = .next t) :
    t.result = if i.performsQuery then queryAnswer s.dec else .noData := by
  rcases exec_next_cases h with
    ⟨rfl, rfl⟩ | ⟨rfl, rfl⟩ | ⟨-, rfl, rfl⟩ | ⟨l, -, rfl, rfl⟩ | ⟨l, -, hi, rfl⟩
  · rfl
  · rfl
  · exact queryResult_params s.dec
  · exact queryResult_params s.dec
  · obtain ⟨-, -, hquery, -⟩ := tickOperation_facts hi
    rw [hquery]
    rfl

end Sys2Proof.Machine
end

section
/-! SUPPORT. One capture, tick by tick (R77, R84, R85, R120): where a capture stands, what each tick does to
it, how the thirteen bit cells assemble a word, and the RepeatCheck tick that ends it. -/

namespace Sys2Proof.Machine

open Sys2Proof.Claims

/-! ### Level strings -/

theorem noCaptureCompletes_append {ls ms : List Bool} {d : DecoderState} :
    noCaptureCompletes (ls ++ ms) d ↔
      noCaptureCompletes ls d ∧ noCaptureCompletes ms (ticks Config.params ls d) := by
  induction ls generalizing d with
  | nil => exact (iff_of_eq (true_and _)).symm
  | cons l ls ih => exact (and_congr_right fun _ => ih).trans and_assoc.symm

/-- From every record that meets `P` the ticks of the level string find no RepeatCheck and end in a record
that meets `Q`. -/
def Leads (ls : List Bool) (P Q : DecoderState → Prop) : Prop :=
  ∀ d, P d → noCaptureCompletes ls d ∧ Q (ticks Config.params ls d)

namespace Leads

variable {P Q R : DecoderState → Prop}

theorem nil : Leads [] P P := fun _ h => ⟨trivial, h⟩

theorem append {ls ms : List Bool} (h : Leads ls P Q) (h' : Leads ms Q R) :
    Leads (ls ++ ms) P R := by
  intro d hd
  obtain ⟨hls, hq⟩ := h d hd
  obtain ⟨hms, hr⟩ := h' _ hq
  rw [ticks_append]
  exact ⟨noCaptureCompletes_append.mpr ⟨hls, hms⟩, hr⟩

theorem cons {l : Bool} {ls : List Bool} (h : Leads [l] P Q) (h' : Leads ls Q R) :
    Leads (l :: ls) P R := h.append h'

/-- A level that keeps `P` keeps it any number of times. -/
theorem replicate {l : Bool} (h : Leads [l] P P) (n : Nat) : Leads (List.replicate n l) P P := by
  induction n with
  | zero => exact nil
  | succ n ih => exact h.cons ih

end Leads

/-! ### Where a capture stands -/

/-- The fields of the record that a capture in progress uses: the phase, the ticks counted in it, the bits
left, the word so far, and the level recorded last. -/
structure CaptureAt (ph : Phase) (count left : Nat) (word : CodeWord) (recorded : Bool)
    (d : DecoderState) : Prop where
  phase : d.phase = ph
  count : d.tickCounter.toNat = count
  left : d.bitIndex.toNat = left
  word : d.codeAccumulator = word
  recorded : d.previousLevel = recorded

/-- A block that meets R36, R38 and R39 in Standby holds an empty capture. -/
theorem captureAt_of_standby {d : DecoderState} (h : d.Inv) (hp : d.phase = .standby) :
    CaptureAt .standby 0 13 0 d.previousLevel d := by
  obtain ⟨hcount, hleft, hword⟩ := h.standby hp
  exact ⟨hp, by rw [hcount]; rfl, by rw [hleft]; rfl, hword, rfl⟩

/-! ### The word so far -/

/-- The bits of a word from position `n` up, the positions below still clear. -/
def bitsFrom (w : BitVec 13) (n : Nat) : CodeWord := (w.setWidth 16 >>> n) <<< n

theorem bitsFrom_getLsbD {w : BitVec 13} {n k : Nat} (hk : k < 16) :
    (bitsFrom w n).getLsbD k = (decide (n ≤ k) && w.getLsbD k) := by
  by_cases h : n ≤ k
  · simp [bitsFrom, hk, h, Nat.not_lt.mpr h]
  · simp [bitsFrom, h, Nat.lt_of_not_le h]

/-- Before the first change no bit is captured. -/
theorem bitsFrom_thirteen (w : BitVec 13) : bitsFrom w 13 = 0 := by
  refine BitVec.eq_of_getLsbD_eq fun k hk => ?_
  rw [bitsFrom_getLsbD hk]
  by_cases h : 13 ≤ k
  · simp [BitVec.getLsbD_of_ge w k h]
  · simp [h]

/-- After the last change the word is captured, first bit in bit 12 (R77). -/
theorem bitsFrom_zero (w : BitVec 13) : bitsFrom w 0 = w.setWidth 16 := by
  simp [bitsFrom]

/-- The bit written at a change extends the word by one position (R77, R107). -/
theorem bitsFrom_eq_or_bitAt {w : BitVec 13} {i : BitIndex} (hi : i.toNat < 13) :
    bitsFrom w i.toNat =
      if w.getLsbD i.toNat then bitsFrom w (i.toNat + 1) ||| bitAt i
      else bitsFrom w (i.toNat + 1) := by
  refine BitVec.eq_of_getLsbD_eq fun k hk => ?_
  rw [apply_ite (BitVec.getLsbD · k), BitVec.getLsbD_or, bitAt_getLsbD (by omega),
    bitsFrom_getLsbD hk, bitsFrom_getLsbD hk]
  by_cases hki : k = i.toNat
  · subst hki
    cases w.getLsbD i.toNat <;> simp
  · have hle : i.toNat + 1 ≤ k ↔ i.toNat ≤ k := by omega
    simp [hki, hle]

/-! ### One tick -/

section Ticks
variable {n m : Nat} {word : CodeWord} {q : Bool}

/-- One tick, from the record its arm leaves. -/
theorem leads_singleton {ph : Phase} {l : Bool} {P Q : DecoderState → Prop} (hne : ph ≠ .repeatCheck)
    (hP : ∀ d, P d → d.phase = ph)
    (harm : ∀ d, P d → Q (ticked (arm Config.params ph (sample l d)))) : Leads [l] P Q := by
  intro d hd
  refine ⟨⟨fun h => hne ((hP d hd).symm.trans h), trivial⟩, ?_⟩
  change Q (tick Config.params l d)
  rw [tick_params, hP d hd]
  exact harm d hd

/-- An idle line leaves Standby as it is (R102). -/
theorem leads_standby_low :
    Leads [false] (CaptureAt .standby n m word q) (CaptureAt .standby n m word q) := by
  refine leads_singleton (ph := .standby) nofun (fun _ h => h.phase) fun d h => ?_
  obtain ⟨hp, hcount, hleft, hword, hq⟩ := h
  rcases standbyArm_cases (sample false d) with ⟨hl, -⟩ | ⟨-, e⟩
  · exact absurd hl nofun
  · simp only [arm, e]
    exact ⟨hp, hcount, hleft, hword, hq⟩

/-- A high level starts a capture (R102). -/
theorem leads_standby_high :
    Leads [true] (CaptureAt .standby n m word q) (CaptureAt .delaying n m word q) := by
  refine leads_singleton (ph := .standby) nofun (fun _ h => h.phase) fun d h => ?_
  obtain ⟨-, hcount, hleft, hword, hq⟩ := h
  rcases standbyArm_cases (sample true d) with ⟨-, e⟩ | ⟨hl, -⟩
  · simp only [arm, e]
    exact ⟨rfl, hcount, hleft, hword, hq⟩
  · exact absurd hl nofun

/-- The counter after a tick counted below 255. -/
theorem tickCounter_toNat_succ {c : TickCounter} (h : c.toNat = n) (hn : n < 255) : (c + 1).toNat = n + 1 := by
  bv_omega

/-- The first three ticks in Delaying count, whatever the level (R103). -/
theorem leads_delaying_count (hn : n < 3) (l : Bool) :
    Leads [l] (CaptureAt .delaying n m word q) (CaptureAt .delaying (n + 1) m word q) := by
  refine leads_singleton (ph := .delaying) nofun (fun _ h => h.phase) fun d h => ?_
  obtain ⟨hp, hcount, hleft, hword, hq⟩ := h
  rcases delayingArm_cases Config.params (sample l d) with ⟨-, e⟩ | ⟨hc, -⟩ | ⟨hc, -⟩
  · simp only [arm, e]
    exact ⟨hp, tickCounter_toNat_succ hcount (by omega), hleft, hword, hq⟩
  all_goals
    rw [sample_tickCounter, hcount, Config.params_delayThreshold] at hc
    omega

/-- The fourth tick in Delaying with bits left records the level (R105). -/
theorem leads_delaying_record (hm : m + 1 ≤ 13) (l : Bool) :
    Leads [l] (CaptureAt .delaying 3 (m + 1) word q) (CaptureAt .waiting 0 (m + 1) word l) := by
  refine leads_singleton (ph := .delaying) nofun (fun _ h => h.phase) fun d h => ?_
  obtain ⟨-, hcount, hleft, hword, -⟩ := h
  rcases delayingArm_cases Config.params (sample l d) with ⟨hc, -⟩ | ⟨-, hb, -⟩ | ⟨-, -, e⟩
  · rw [sample_tickCounter, hcount, Config.params_delayThreshold] at hc
    omega
  · have := (toInt_lt_one_iff (n := d.bitIndex) (by omega)).mp hb
    omega
  · simp only [arm, e]
    exact ⟨rfl, rfl, hleft, hword, rfl⟩

/-- The fourth tick in Delaying with no bit left hands the word to RepeatCheck (R104). -/
theorem leads_delaying_finish (l : Bool) :
    Leads [l] (CaptureAt .delaying 3 0 word q) (CaptureAt .repeatCheck 0 13 word q) := by
  refine leads_singleton (ph := .delaying) nofun (fun _ h => h.phase) fun d h => ?_
  obtain ⟨-, hcount, hleft, hword, hq⟩ := h
  rcases delayingArm_cases Config.params (sample l d) with ⟨hc, -⟩ | ⟨-, -, e⟩ | ⟨-, hb, -⟩
  · rw [sample_tickCounter, hcount, Config.params_delayThreshold] at hc
    omega
  · simp only [arm, e]
    exact ⟨rfl, rfl, rfl, hword, hq⟩
  · have := (toInt_lt_one_iff (n := d.bitIndex) (by omega)).mpr hleft
    rw [sample_bitIndex] at hb
    omega

/-- The first two ticks in Waiting at the recorded level count (R108). -/
theorem leads_waiting_count (hn : n < 2) :
    Leads [q] (CaptureAt .waiting n m word q) (CaptureAt .waiting (n + 1) m word q) := by
  refine leads_singleton (ph := .waiting) nofun (fun _ h => h.phase) fun d h => ?_
  obtain ⟨hp, hcount, hleft, hword, hq⟩ := h
  rcases waitingArm_cases Config.params (sample q d) with ⟨hne, -⟩ | ⟨-, -, e⟩ | ⟨-, hc, -⟩
  · exact absurd hq.symm hne
  · simp only [arm, e]
    exact ⟨hp, tickCounter_toNat_succ hcount (by omega), hleft, hword, hq⟩
  · rw [sample_tickCounter, hcount, Config.params_timeoutThreshold] at hc
    omega

/-- A change captures the bit that the new level is (R107). -/
theorem leads_waiting_change {w : BitVec 13} (hm : m < 13) :
    Leads [w.getLsbD m] (CaptureAt .waiting n (m + 1) (bitsFrom w (m + 1)) (!w.getLsbD m))
      (CaptureAt .delaying 0 m (bitsFrom w m) (!w.getLsbD m)) := by
  refine leads_singleton (ph := .waiting) nofun (fun _ h => h.phase) fun d h => ?_
  obtain ⟨-, -, hleft, hword, hq⟩ := h
  rcases waitingArm_cases Config.params (sample (w.getLsbD m) d) with ⟨-, e⟩ | ⟨heq, -⟩ | ⟨heq, -⟩
  · have hidx : (decrementIndex d.bitIndex).toNat = m := by
      rw [decrementIndex_toNat (by omega) (by omega), hleft, Nat.add_sub_cancel]
    have hbits := bitsFrom_eq_or_bitAt (w := w) (i := decrementIndex d.bitIndex) (by omega)
    rw [hidx, ← hword] at hbits
    simp only [arm, e]
    exact ⟨rfl, rfl, hidx, hbits.symm, hq⟩
  all_goals
    rw [sample_level, sample_previousLevel, hq] at heq
    exact absurd heq (Bool.not_ne_self _).symm

end Ticks

/-! ### Cells and captures -/

section Cells
variable {w : BitVec 13} {m k : Nat} {q : Bool}

/-- The first four ticks after a change: three at any level, the fourth is recorded (R103, R105). -/
theorem leads_delaying_stay {word : CodeWord} (hm : m + 1 ≤ 13) (x y z l : Bool) :
    Leads [x, y, z, l] (CaptureAt .delaying 0 (m + 1) word q)
      (CaptureAt .waiting 0 (m + 1) word l) :=
  (leads_delaying_count (by decide) x).cons <| (leads_delaying_count (by decide) y).cons <|
    (leads_delaying_count (by decide) z).cons <| leads_delaying_record hm l

/-- Up to two further ticks at the recorded level only count (R108). -/
theorem leads_waiting_replicate {word : CodeWord} (hk : k ≤ 2) :
    Leads (List.replicate k q) (CaptureAt .waiting 0 m word q) (CaptureAt .waiting k m word q) := by
  induction k with
  | zero => exact .nil
  | succ k ih =>
    rw [List.replicate_succ']
    exact (ih (by omega)).append (leads_waiting_count (by omega))

/-- One bit cell captures one bit (R120). -/
theorem leads_cell (hm : m < 13) (h1 : 1 ≤ k) (h3 : k ≤ 3) (x y z : Bool) :
    Leads (cellLevels x y z k (w.getLsbD m))
      (CaptureAt .delaying 0 (m + 1) (bitsFrom w (m + 1)) q)
      (CaptureAt .delaying 0 m (bitsFrom w m) (!w.getLsbD m)) := by
  obtain ⟨k, rfl⟩ := Nat.exists_eq_add_of_le' h1
  have hcell : cellLevels x y z (k + 1) (w.getLsbD m) =
      [x, y, z, !w.getLsbD m] ++ List.replicate k (!w.getLsbD m) ++ [w.getLsbD m] := rfl
  rw [hcell]
  exact ((leads_delaying_stay hm x y z _).append (leads_waiting_replicate (by omega))).append
    (leads_waiting_change hm)

variable {x y z : Nat → Bool} {ks : Nat → Nat}

/-- The cells of a word, its first bit first. -/
def wordCells (w : BitVec 13) (x y z : Nat → Bool) (ks : Nat → Nat) (n : Nat) : List Bool :=
  (List.range n).flatMap fun j => cellLevels (x j) (y j) (z j) (ks j) (w.getLsbD (12 - j))

theorem wordCells_succ (n : Nat) :
    wordCells w x y z ks (n + 1) =
      wordCells w x y z ks n ++ cellLevels (x n) (y n) (z n) (ks n) (w.getLsbD (12 - n)) := by
  simp [wordCells, List.range_succ]

/-- The first `n + 1` cells capture the first `n + 1` bits, by induction on the cells. -/
theorem leads_wordCells (hks : ∀ j < 13, 1 ≤ ks j ∧ ks j ≤ 3) {n : Nat} (hn : n < 13) :
    Leads (wordCells w x y z ks (n + 1)) (CaptureAt .delaying 0 13 0 q)
      (CaptureAt .delaying 0 (12 - n) (bitsFrom w (12 - n)) (!w.getLsbD (12 - n))) := by
  induction n with
  | zero =>
    obtain ⟨h1, h3⟩ := hks 0 hn
    have hcell := leads_cell (w := w) (m := 12) (q := q) (by decide) h1 h3 (x 0) (y 0) (z 0)
    rw [bitsFrom_thirteen] at hcell
    rw [wordCells_succ]
    exact Leads.nil.append hcell
  | succ n ih =>
    obtain ⟨h1, h3⟩ := hks (n + 1) hn
    have hm : 12 - n = 12 - (n + 1) + 1 := by omega
    rw [wordCells_succ]
    refine (ih (by omega)).append ?_
    rw [hm]
    exact leads_cell (by omega) h1 h3 _ _ _

/-- All ticks of an acceptable transmission but the last bring the word to RepeatCheck (R77, R120). -/
theorem leads_capture (hks : ∀ j < 13, 1 ≤ ks j ∧ ks j ≤ 3) (a b c d : Bool) :
    Leads (true :: wordCells w x y z ks 13 ++ [a, b, c, d]) (CaptureAt .standby 0 13 0 q)
      (CaptureAt .repeatCheck 0 13 (w.setWidth 16) (!w.getLsbD 0)) := by
  rw [← bitsFrom_zero]
  exact (leads_standby_high.cons (leads_wordCells hks (by decide))).append <|
    (leads_delaying_count (by decide) a).cons <| (leads_delaying_count (by decide) b).cons <|
      (leads_delaying_count (by decide) c).cons <| leads_delaying_finish d

end Cells

/-! ### The RepeatCheck tick -/

section RepeatCheck
variable {word : CodeWord} {q : Bool} {d : DecoderState}

/-- A capture equal to the buffer in an open window is a confirmed repeat (R112). -/
theorem tick_of_equalInWindow (hp : d.phase = .repeatCheck) (h : equalInWindow d)
    (l : Bool) :
    (tick Config.params l d).repeatState = .confirmed ∧
      (tick Config.params l d).newDataAvailable = d.newDataAvailable := by
  rw [tick_params, hp]
  rcases repeatCheckArm_cases (sample l d) with ⟨-, e⟩ | ⟨hne, -⟩ | ⟨hne, -⟩
  · simp [arm, e, windowAfter]
  · exact absurd h hne
  · exact absurd h hne

/-- Another capture is delivered where no code is unread (R85, R113). -/
theorem tick_eq_delivered (h : CaptureAt .repeatCheck 0 13 word q d) (hne : ¬ equalInWindow d)
    (hread : d.newDataAvailable = false) (l : Bool) :
    tick Config.params l d = delivered word l q := by
  obtain ⟨hp, hcount, hleft, hword, hq⟩ := h
  rw [tick_params, hp]
  rcases repeatCheckArm_cases (sample l d) with ⟨heq, -⟩ | ⟨-, -, e⟩ | ⟨-, hunread, -⟩
  · exact absurd heq hne
  · have hcounter : d.tickCounter = 0 := BitVec.eq_of_toNat_eq hcount
    have hindex : d.bitIndex = 13 := BitVec.eq_of_toNat_eq hleft
    simp [arm, e, ticked, timerAfter, windowAfter, delivered, hword, hq, hcounter, hindex]
  · exact absurd (hread.symm.trans hunread) nofun

end RepeatCheck

end Sys2Proof.Machine
end

section
/-! SUPPORT. Whole transmissions: what one of acceptable timing, one frame, and the same frame twice leave
behind and answer (R84, R85, R120, R121). -/

namespace Sys2Proof.Machine

open Sys2Proof.Claims

/-! ### Acceptable timing -/

/-- Ticks that bring a capture to RepeatCheck in a block with no window open and nothing unread, and one
tick more, deliver it. -/
theorem ticks_eq_delivered {ls : List Bool} {s : State} {word : CodeWord} {q : Bool}
    (hs : IdleAndEmpty s)
    (h : Leads ls (CaptureAt .standby 0 13 0 s.dec.previousLevel)
      (CaptureAt .repeatCheck 0 13 word q)) (l : Bool) :
    ticks Config.params (ls ++ [l]) s.dec = delivered word l q := by
  obtain ⟨-, hinv, hp, hread, hwindow⟩ := hs
  obtain ⟨hls, hcapture⟩ := h s.dec (captureAt_of_standby hinv hp)
  obtain ⟨-, hwindow', hread', -⟩ := ticks_age_window hinv.timer_range hls
  rw [hwindow, ite_self] at hwindow'
  rw [ticks_append]
  exact tick_eq_delivered hcapture (fun heq => heq.1 hwindow') (hread'.trans hread) l

/-- An initialised block completes a level string that is not empty; no result is shown. -/
theorem execAll_tickOps_of_ne_nil {s : State} (h : s.initialised = true) {ls : List Bool}
    (hls : ls ≠ []) :
    execAll (tickOps ls) s = .next (s.afterEdge (ticks Config.params ls s.dec) .noData) := by
  cases ls with
  | nil => exact absurd rfl hls
  | cons l ls => exact execAll_tickOps h l ls

/-! ### FRAME6 -/

/-- The level of the half cell before the cell of `W[12 - j]`: the frame's leading high, then the second
half of the cell before (R84). -/
def levelBefore (w : BitVec 13) (j : Nat) : Bool := if j = 0 then true else w.getLsbD (13 - j)

/-- The ticks of `FRAME6(W)` before its RepeatCheck tick. -/
def frame6Capture (w : BitVec 13) : List Bool :=
  true :: wordCells w (levelBefore w) (levelBefore w) (fun j => !w.getLsbD (12 - j)) (fun _ => 2) 13 ++
    [w.getLsbD 0, w.getLsbD 0, false, false]

/-- Read from change to change, `FRAME6(W)` is an acceptable transmission with its changes 6 ticks apart
(R84, R120). -/
theorem frame6Levels_eq (w : BitVec 13) : frame6Levels w = frame6Capture w ++ [false] := rfl

theorem frame6Capture_length (w : BitVec 13) : (frame6Capture w).length = 83 := rfl

theorem leads_frame6Capture {w : BitVec 13} {q : Bool} :
    Leads (frame6Capture w) (CaptureAt .standby 0 13 0 q)
      (CaptureAt .repeatCheck 0 13 (w.setWidth 16) (!w.getLsbD 0)) :=
  leads_capture (fun _ _ => by decide) _ _ _ _

/-- `FRAME6(W)` from an idle, empty block (R85). -/
theorem ticks_frame6 {s : State} (hs : IdleAndEmpty s) (w : BitVec 13) :
    ticks Config.params (frame6Levels w) s.dec =
      delivered (w.setWidth 16) false (!w.getLsbD 0) := by
  rw [frame6Levels_eq, ticks_eq_delivered hs leads_frame6Capture]

theorem frame6Levels_ne_nil (w : BitVec 13) : frame6Levels w ≠ [] := nofun

/-! ### The same frame twice -/

/-- A level string followed by a query, in an initialised block. -/
theorem execAll_tickOps_query {s : State} (h : s.initialised = true) {ls : List Bool}
    (hls : ls ≠ []) :
    execAll (tickOps ls ++ [.query]) s =
      .next (s.afterEdge (queryEffect (ticks Config.params ls s.dec))
        (queryAnswer (ticks Config.params ls s.dec))) := by
  have hquery := exec_query_of_initialised
    (s := s.afterEdge (ticks Config.params ls s.dec) .noData) h
  rw [execAll_append _ _ (execAll_tickOps_of_ne_nil h hls), execAll, hquery]
  rfl

/-- The block after `FRAME6(W)` and the query that took its payload (R85). -/
def frameTaken (w : BitVec 13) : DecoderState :=
  { delivered (w.setWidth 16) false (!w.getLsbD 0) with newDataAvailable := false }

theorem queryEffect_delivered (w : BitVec 13) :
    queryEffect (delivered (w.setWidth 16) false (!w.getLsbD 0)) = frameTaken w :=
  queryEffect_eq _

/-- The second frame's RepeatCheck tick, `84 + n` ticks after the first one's: it finds the capture complete,
no code unread, the first word in the buffer, and the window open for 500 ticks (R112, R121). -/
theorem frameTaken_at_repeatCheck (w : BitVec 13) (n : Nat) :
    let d := ticks Config.params (idleLevels n ++ frame6Capture w) (frameTaken w)
    CaptureAt .repeatCheck 0 13 (w.setWidth 16) (!w.getLsbD 0) d ∧
      d.newDataAvailable = false ∧ (equalInWindow d ↔ 84 + n ≤ 500) := by
  intro d
  have hleads : Leads (idleLevels n ++ frame6Capture w) (CaptureAt .standby 0 13 0 (!w.getLsbD 0))
      (CaptureAt .repeatCheck 0 13 (w.setWidth 16) (!w.getLsbD 0)) :=
    (leads_standby_low.replicate n).append leads_frame6Capture
  obtain ⟨hls, hcapture⟩ := hleads (frameTaken w) ⟨rfl, rfl, rfl, rfl, rfl⟩
  have htimer : (frameTaken w).repeatTimer.toNat = 1 := rfl
  have hlength : (idleLevels n ++ frame6Capture w).length = n + 83 := by
    rw [List.length_append, frame6Capture_length, idleLevels, List.length_replicate]
  obtain ⟨-, hwindow, hread, hbuffer⟩ := ticks_age_window (by omega) hls
  refine ⟨hcapture, hread, ?_⟩
  have hword : d.codeAccumulator = d.codeBuffer := hcapture.word.trans hbuffer.symm
  rw [htimer, hlength] at hwindow
  rw [equalInWindow, and_iff_left hword, hwindow]
  by_cases h : 84 + n ≤ 500
  · rw [if_pos (by omega)]
    exact iff_of_true nofun h
  · rw [if_neg (by omega)]
    exact iff_of_false (not_not.mpr rfl) h

/-- What a query answers after the second frame (R121). -/
theorem queryAnswer_secondFrame (w : BitVec 13) (n : Nat) :
    queryAnswer (ticks Config.params (idleLevels n ++ frame6Levels w) (frameTaken w)) =
      if 84 + n ≤ 500 then .repeated else .code (w.setWidth 16 &&& 0x07FF) := by
  obtain ⟨hcapture, hread, hwindow⟩ := frameTaken_at_repeatCheck w n
  rw [frame6Levels_eq, ← List.append_assoc, ticks_append]
  change queryAnswer (tick Config.params false _) = _
  split
  · next h =>
    obtain ⟨hconfirmed, hflag⟩ :=
      tick_of_equalInWindow hcapture.phase (hwindow.mpr h) false
    rw [queryAnswer_of_read (hflag.trans hread), if_pos hconfirmed]
  · next h =>
    rw [tick_eq_delivered hcapture (h ∘ hwindow.mp) hread]
    rfl

end Sys2Proof.Machine
end

section
/-! The statements about words, operands and the traces of words (spec/30_encoding.md), settled. -/

namespace Sys2Proof.Proofs

open Sys2Proof.Machine Sys2Proof.Claims

/-- Settles O3: both directions format by format; the words of the arms are the words of `PHASE_STIM` that
decode. -/
theorem decodeAndEncodeAgree : Obligations.DecodeAndEncodeAgree :=
  ⟨decode_encode, exists_decode_eq_ok_iff, fun _ _ => encode_of_decode_eq_ok⟩

/-- Settles O5: placing a whole byte is placing the word it stands for. -/
theorem placedTableWordRunsNext : Obligations.PlacedTableWordRunsNext :=
  fun s _ _ h => step_withFetchWord h s

/-- Settles O20: the codes by evaluation, the result by the operation performed. -/
theorem resultPortsShowTheQuery : Obligations.ResultPortsShowTheQuery :=
  ⟨⟨rfl, rfl⟩, fun _ => ⟨rfl, rfl⟩, ⟨rfl, rfl⟩, fun _ _ _ h => exec_result h⟩

/-- Settles O21, bit by bit of the word. -/
theorem controlMaskKeepsPayload : Obligations.ControlMaskKeepsPayload := by
  refine ⟨rfl, fun s hs hunread => ⟨_, exec_query_of_initialised hs, ?_⟩, fun w =>
    ⟨payload_getLsbD w, payload_eq_fields w, payload_eq_and_E7FF⟩⟩
  rw [State.afterEdge_result, queryAnswer_of_unread hunread, payload, Config.params_controlMask]

/-- Settles O32: the capture ends at the tick before the last, which delivers it. -/
theorem acceptableTimingDeliversTheWord : Obligations.AcceptableTimingDeliversTheWord := by
  intro w x y z k a b c d e s hs hk
  have hlevels : true :: (List.range 13).flatMap
        (fun j => cellLevels (x j) (y j) (z j) (k j) (w.getLsbD (12 - j))) ++ [a, b, c, d, e] =
      (true :: wordCells w x y z k 13 ++ [a, b, c, d]) ++ [e] := by
    simp [wordCells]
  rw [hlevels, execAll_tickOps_of_ne_nil hs.1 (by simp),
    ticks_eq_delivered hs (leads_capture hk a b c d)]
  rfl

/-- Settles O33: the frame delivers, the first query takes the code, the second finds the flag down and no
confirmed repeat. -/
theorem frameDeliversItsWordOnce : Obligations.FrameDeliversItsWordOnce := by
  intro w s hs
  have hinit : s.initialised = true := hs.1
  have hframe := execAll_tickOps_of_ne_nil hinit (frame6Levels_ne_nil w)
  rw [ticks_frame6 hs] at hframe
  exact ⟨_, _, _, hframe, rfl, exec_query_of_initialised hinit, rfl,
    exec_query_of_initialised hinit, rfl⟩

/-- Settles O35: the first frame is taken by its query; the second one's RepeatCheck tick comes `84 + n`
ticks after the first one's. -/
theorem secondFrameRepeatsWithinWindow : Obligations.SecondFrameRepeatsWithinWindow := by
  intro w n s hs
  have hinit : s.initialised = true := hs.1
  have hfirst := execAll_tickOps_query hinit (frame6Levels_ne_nil w)
  rw [ticks_frame6 hs, queryEffect_delivered] at hfirst
  exact ⟨_, _, hfirst, rfl,
    execAll_tickOps_query (s := s.afterEdge (frameTaken w) _) hinit
      (List.append_ne_nil_of_right_ne_nil _ (frame6Levels_ne_nil w)),
    queryAnswer_secondFrame w n⟩

/-- Settles O1: a placed word, then a free one. -/
theorem stepRunsStimulusAtPorts : Obligations.StepRunsStimulusAtPorts :=
  ⟨fun _ _ _ h => step_of_pending h, fun _ h => step_of_no_pending h⟩

/-- Settles O2: the ports of a formed word, then the sixteen words. -/
theorem stimWordsSelectOperations : Obligations.StimWordsSelectOperations :=
  ⟨by decide, decodeStim_eq⟩

/-- Settles O4, by evaluation of the decoder on the twelve words. -/
theorem tableWordsDecode : Obligations.TableWordsDecode := by
  unfold Obligations.TableWordsDecode
  decide

/-- Settles O12: an arm looks at the phase before anything else. -/
theorem armOfAnotherPhaseIsRefused : Obligations.ArmOfAnotherPhaseIsRefused :=
  fun l _ _ hs h => exec_armOf_of_phase_ne hs h l

end Sys2Proof.Proofs
end

section
/-! SUPPORT. One `TICK` in each phase (spec/40_tick_fsm.md R100 to R116): the operations that perform it, and
the whole record it leaves. -/

namespace Sys2Proof.Machine

open Sys2Proof.Claims

/-- `TICK(l)` and the sub-operation of the phase held, in an initialised block (R74, R100, R119). -/
theorem exec_tickOperation {i : Instr} {s : State} {ph : Phase} {l : Bool} (hs : s.initialised = true)
    (hp : s.dec.phase = ph) (hi : i = .tick l ∨ i = Instr.armOf ph l) :
    exec i s = .next (s.afterEdge (tick Config.params l s.dec) .noData) := by
  subst hp
  rcases hi with rfl | rfl
  · exact exec_tick_of_initialised hs l
  · exact (exec_armOf s l).trans (exec_tick_of_initialised hs l)

section OneTick
variable {d : DecoderState}

/-- A tick of a known phase, from what the arm of that phase leaves. -/
theorem tick_of_arm {ph : Phase} {l : Bool} {d' : DecoderState} (hp : d.phase = ph)
    (harm : arm Config.params ph (sample l d) = d') : tick Config.params l d = ticked d' := by
  rw [tick_params, hp, harm]

/-- A tick in Standby tests the level (R102). -/
theorem tick_standby (hp : d.phase = .standby) (l : Bool) :
    tick Config.params l d =
      ticked { d with phase := if l then .delaying else .standby, level := l } := by
  refine tick_of_arm hp ?_
  rcases standbyArm_cases (sample l d) with ⟨hl, e⟩ | ⟨hl, e⟩ <;>
    (rw [sample_level] at hl; subst hl)
  · exact e
  · rw [arm, e, if_neg Bool.false_ne_true, ← hp]
    rfl

/-- A tick in Delaying counts, and above the threshold leaves (R103 to R105). -/
theorem tick_delaying (hp : d.phase = .delaying) (l : Bool) :
    tick Config.params l d =
      ticked
        (if d.tickCounter.toNat + 1 ≤ 3 then
          { d with level := l, tickCounter := d.tickCounter + 1 }
        else if d.bitIndex.toInt < 1 then
          { d with level := l, tickCounter := 0, bitIndex := 13, phase := .repeatCheck }
        else { d with level := l, tickCounter := 0, previousLevel := l, phase := .waiting }) := by
  refine tick_of_arm hp ?_
  rcases delayingArm_cases Config.params (sample l d) with ⟨hc, e⟩ | ⟨hc, hb, e⟩ | ⟨hc, hb, e⟩
  · exact e.trans (if_pos hc).symm
  · exact e.trans ((if_neg (Nat.not_le.mpr hc)).trans (if_pos hb)).symm
  · exact e.trans ((if_neg (Nat.not_le.mpr hc)).trans (if_neg (Int.not_lt.mpr hb))).symm

/-- A tick in Waiting at another level takes the change branch (R106, R107). -/
theorem tick_waiting_change (hp : d.phase = .waiting) {l : Bool} (hl : l ≠ d.previousLevel) :
    tick Config.params l d = ticked (changeBranch (sample l d)) := by
  refine tick_of_arm hp ?_
  rcases waitingArm_cases Config.params (sample l d) with ⟨-, e⟩ | ⟨heq, -⟩ | ⟨heq, -⟩
  · exact e
  · exact absurd heq hl
  · exact absurd heq hl

/-- A tick in Waiting at the recorded level counts, and above the threshold aborts (R108 to R110). -/
theorem tick_waiting_same (hp : d.phase = .waiting) {l : Bool} (hl : l = d.previousLevel) :
    tick Config.params l d =
      ticked
        (if d.tickCounter.toNat + 1 ≤ 2 then
          { d with level := l, tickCounter := d.tickCounter + 1 }
        else
          { d with
            level := l, tickCounter := 0, codeAccumulator := 0, bitIndex := 13, phase := .standby }) := by
  refine tick_of_arm hp ?_
  rcases waitingArm_cases Config.params (sample l d) with ⟨hne, -⟩ | ⟨-, hc, e⟩ | ⟨-, hc, e⟩
  · exact absurd hl hne
  · exact e.trans (if_pos hc).symm
  · exact e.trans (if_neg (Nat.not_le.mpr hc)).symm

/-- A tick in RepeatCheck confirms an equal capture in an open window (R112). -/
theorem tick_repeatCheck_confirms (hp : d.phase = .repeatCheck) (h : equalInWindow d) (l : Bool) :
    tick Config.params l d = { d with
      level := l, codeAccumulator := 0, phase := .standby
      repeatState := .confirmed, repeatTimer := 1 } := by
  rcases repeatCheckArm_cases (sample l d) with ⟨-, e⟩ | ⟨hne, -⟩ | ⟨hne, -⟩
  · exact tick_of_arm hp e
  · exact absurd h hne
  · exact absurd h hne

/-- A tick in RepeatCheck delivers another capture where no code is unread (R113). -/
theorem tick_repeatCheck_delivers (hp : d.phase = .repeatCheck) (h : ¬ equalInWindow d)
    (hread : d.newDataAvailable = false) (l : Bool) :
    tick Config.params l d = { d with
      level := l, codeAccumulator := 0, phase := .standby
      codeBuffer := d.codeAccumulator, newDataAvailable := true
      repeatState := .provisional, repeatTimer := 1 } := by
  rcases repeatCheckArm_cases (sample l d) with ⟨heq, -⟩ | ⟨-, -, e⟩ | ⟨-, hunread, -⟩
  · exact absurd heq h
  · exact tick_of_arm hp e
  · exact absurd (hread.symm.trans hunread) nofun

/-- A tick in RepeatCheck discards another capture where a code is unread; the window it leaves is closed, so
the post-step moves the timer alone (R112, R114, R116). -/
theorem tick_repeatCheck_discards (hp : d.phase = .repeatCheck) (h : ¬ equalInWindow d)
    (hunread : d.newDataAvailable = true) (l : Bool) :
    tick Config.params l d = { d with
      level := l, codeAccumulator := 0, phase := .standby
      repeatState := .none, repeatTimer := timerAfter d } := by
  rcases repeatCheckArm_cases (sample l d) with ⟨heq, -⟩ | ⟨-, hread, -⟩ | ⟨-, -, e⟩
  · exact absurd heq h
  · exact absurd (hread.symm.trans hunread) nofun
  · rw [tick_of_arm hp e, ticked, windowAfter, ite_self]
    rfl

end OneTick

/-- The change branch writes the one bit that the new `bitIndex` names (R107). -/
theorem changeBranch_getLsbD {d : DecoderState} (h1 : 1 ≤ d.bitIndex.toNat)
    (h13 : d.bitIndex.toNat ≤ 13) (k : Nat) :
    (changeBranch d).codeAccumulator.getLsbD k =
      (d.codeAccumulator.getLsbD k || (d.level && decide (k = d.bitIndex.toNat - 1))) := by
  have hidx := decrementIndex_toNat h1 h13
  rw [changeBranch_codeAccumulator]
  cases d.level with
  | false => simp
  | true =>
    rw [if_pos rfl, BitVec.getLsbD_or, bitAt_getLsbD (by omega), hidx, Bool.true_and]

end Sys2Proof.Machine
end

section
/-! SUPPORT. Stays in Delaying and Waiting (R103 to R110), and a line stuck high (R190): where each leads, tick
by tick. -/

namespace Sys2Proof.Machine

open Sys2Proof.Claims

/-- Ticks of which none finds RepeatCheck leave the flag and the buffer (R62), by induction on the ticks. -/
theorem ticks_keep_flag_and_buffer {ls : List Bool} {d : DecoderState}
    (hls : noCaptureCompletes ls d) :
    (ticks Config.params ls d).newDataAvailable = d.newDataAvailable ∧
      (ticks Config.params ls d).codeBuffer = d.codeBuffer := by
  induction ls generalizing d with
  | nil => exact ⟨rfl, rfl⟩
  | cons l ls ih =>
    obtain ⟨hp, hrest⟩ := hls
    obtain ⟨-, -, hflag, hbuf⟩ := tick_result_fields hp l
    obtain ⟨iflag, ibuf⟩ := ih hrest
    exact ⟨iflag.trans hflag, ibuf.trans hbuf⟩

theorem Leads.imp {ls : List Bool} {P Q R : DecoderState → Prop} (h : Leads ls P Q)
    (hQ : ∀ d, Q d → R d) : Leads ls P R :=
  fun d hd => (h d hd).imp_right (hQ _)

/-- One tick, from the record it leaves. -/
theorem leads_of_tick {ph : Phase} {l : Bool} {P Q : DecoderState → Prop} (hne : ph ≠ .repeatCheck)
    (hP : ∀ d, P d → d.phase = ph) (htick : ∀ d, P d → Q (tick Config.params l d)) : Leads [l] P Q :=
  fun d hd => ⟨⟨fun h => hne ((hP d hd).symm.trans h), trivial⟩, htick d hd⟩

/-- What a level string leads to, for a run of the block: the flag and the buffer stand. -/
theorem execAll_tickOps_of_leads {s : State} {ls : List Bool} {P Q : DecoderState → Prop}
    (hs : s.initialised = true) (h : Leads ls P Q) (hP : P s.dec) :
    ∃ t, execAll (tickOps ls) s = .next t ∧ Q t.dec ∧
      t.dec.newDataAvailable = s.dec.newDataAvailable ∧ t.dec.codeBuffer = s.dec.codeBuffer := by
  obtain ⟨t, hrun, hdec⟩ := execAll_tickOps_dec hs ls
  obtain ⟨hls, hQ⟩ := h s.dec hP
  refine ⟨t, hrun, ?_⟩
  rw [hdec]
  exact ⟨hQ, ticks_keep_flag_and_buffer hls⟩

section Stays
variable {n m : Nat} {word : CodeWord} {q : Bool} {d : DecoderState}

/-- A record holds the capture that its fields say. -/
theorem captureAt_of_fields {ph : Phase} (hp : d.phase = ph) (hcount : d.tickCounter = 0) :
    CaptureAt ph 0 d.bitIndex.toNat d.codeAccumulator d.previousLevel d :=
  ⟨hp, by rw [hcount]; rfl, rfl, rfl, rfl⟩

theorem CaptureAt.tickCounter_eq_zero {ph : Phase} (h : CaptureAt ph 0 m word q d) :
    d.tickCounter = 0 := BitVec.eq_of_toNat_eq h.count

/-- Three ticks of any levels keep a fresh stay in Delaying (R103). -/
theorem leads_delaying_three (a b c : Bool) :
    Leads [a, b, c] (CaptureAt .delaying 0 m word q) (CaptureAt .delaying 3 m word q) :=
  (leads_delaying_count (by decide) a).cons <| (leads_delaying_count (by decide) b).cons <|
    leads_delaying_count (by decide) c

/-- The fourth tick in Delaying, for every `bitIndex` that is at least 1 as a signed number (R105). -/
theorem tick_delaying_record (h : CaptureAt .delaying 3 m word q d) (hleft : 1 ≤ d.bitIndex.toInt)
    (l : Bool) :
    tick Config.params l d =
      ticked { d with level := l, tickCounter := 0, previousLevel := l, phase := .waiting } := by
  rw [tick_delaying h.phase, if_neg (by rw [h.count]; decide), if_neg (Int.not_lt.mpr hleft)]

/-- A change in Waiting begins a stay in Delaying (R107). -/
theorem leads_waiting_complement :
    Leads [!q] (CaptureAt .waiting n m word q) fun d => d.phase = .delaying ∧ d.tickCounter = 0 := by
  refine leads_of_tick (ph := .waiting) nofun (fun _ h => h.phase) fun d h => ?_
  have hchange : (!q) ≠ d.previousLevel := by
    rw [h.recorded]
    exact Bool.not_ne_self q
  rw [tick_waiting_change h.phase hchange]
  exact ⟨rfl, rfl⟩

/-- The third tick in Waiting at the recorded level aborts the capture (R109, R110). -/
theorem leads_waiting_abort :
    Leads [q] (CaptureAt .waiting 2 m word q) (CaptureAt .standby 0 13 0 q) := by
  refine leads_of_tick (ph := .waiting) nofun (fun _ h => h.phase) fun d h => ?_
  rw [tick_waiting_same h.phase h.recorded.symm, if_neg (by rw [h.count]; decide)]
  exact ⟨rfl, rfl, rfl, rfl, h.recorded⟩

end Stays

/-! ### A line stuck high -/

/-- Where the capture of a line stuck high stands, by the number of ticks since it began in Standby: it never
holds a bit, and in Waiting the recorded level is high. -/
inductive StuckHighAt : Nat → DecoderState → Prop where
  | standby {q : Bool} {d : DecoderState} (h : CaptureAt .standby 0 13 0 q d) : StuckHighAt 0 d
  | delaying {n : Nat} {q : Bool} {d : DecoderState} (hn : n < 4)
      (h : CaptureAt .delaying n 13 0 q d) : StuckHighAt (n + 1) d
  | waiting {n : Nat} {d : DecoderState} (hn : n < 3) (h : CaptureAt .waiting n 13 0 true d) :
      StuckHighAt (n + 5) d

theorem StuckHighAt.word {n : Nat} {d : DecoderState} (h : StuckHighAt n d) :
    d.codeAccumulator = 0 := by
  cases h with
  | standby h => exact h.word
  | delaying _ h => exact h.word
  | waiting _ h => exact h.word

theorem StuckHighAt.phase {n : Nat} {d : DecoderState} (h : StuckHighAt n d) :
    d.phase = if n = 0 then .standby else if n ≤ 4 then .delaying else .waiting := by
  cases h with
  | standby h => exact h.phase
  | delaying hn h => rw [h.phase, if_neg (by omega), if_pos (by omega)]
  | waiting hn h => rw [h.phase, if_neg (by omega), if_neg (by omega)]

/-- One more tick at a high level; the eighth closes the cycle with an abort (R190). -/
theorem leads_stuckHigh (n : Nat) : Leads [true] (StuckHighAt n) (StuckHighAt ((n + 1) % 8)) := by
  intro d hd
  cases hd with
  | standby h => exact (leads_standby_high.imp fun _ h => .delaying (by decide) h) d h
  | @delaying n _ _ hn h =>
    rw [Nat.mod_eq_of_lt (by omega)]
    by_cases hlast : n = 3
    · subst hlast
      exact ((leads_delaying_record (by decide) true).imp fun _ h => .waiting (by decide) h) d h
    · exact ((leads_delaying_count (by omega) true).imp fun _ h => .delaying (by omega) h) d h
  | @waiting n _ hn h =>
    by_cases hlast : n = 2
    · subst hlast
      exact (leads_waiting_abort.imp fun _ h => .standby h) d h
    · rw [Nat.mod_eq_of_lt (by omega)]
      exact ((leads_waiting_count (by omega)).imp fun _ h => .waiting (by omega) h) d h

/-- Any number of ticks at a high level, by induction on their number. -/
theorem leads_stuckHigh_replicate (n : Nat) :
    Leads (List.replicate n true) (StuckHighAt 0) (StuckHighAt (n % 8)) := by
  induction n with
  | zero => exact .nil
  | succ n ih =>
    rw [List.replicate_succ', ← Nat.mod_add_mod]
    exact ih.append (leads_stuckHigh (n % 8))

end Sys2Proof.Machine
end

section
/-! SUPPORT. The reference listing of spec/40_tick_fsm.md section 11 (R118), cut into the parts of R100: its
arms and its post-step, each the widening of the machine's. -/

namespace Sys2Proof.Machine

open Sys2Proof.Config (Params)
open Sys2Proof.Claims

/-! ### The parts of the listing -/

/-- The listing's compare step. -/
def wideCompare (w : WideState) : WideState :=
  if w.repeatState ≠ .none then
    if w.codeAccumulator = w.codeBuffer then { w with repeatTimer := 0, repeatState := .confirmed }
    else { w with repeatState := .none }
  else w

/-- The listing's deliver step. -/
def wideDeliver (w : WideState) : WideState :=
  if w.repeatState = .none ∧ w.newDataAvailable = false then
    { w with
      codeBuffer := w.codeAccumulator, repeatTimer := 0, repeatState := .provisional
      newDataAvailable := true }
  else w

/-- The listing's finish step. -/
def wideFinish (w : WideState) : WideState := { w with codeAccumulator := 0, phase := .standby }

/-- The listing's arms, on the record that the sample has been latched in. -/
def wideArm (p : Params) (ph : Phase) (w : WideState) : WideState :=
  match ph with
  | .standby => if w.level = true then { w with phase := .delaying } else w
  | .delaying =>
    if p.delayThreshold < w.tickCounter + 1 then
      if w.bitIndex < 1 then
        { w with tickCounter := 0, bitIndex := p.bitCount, phase := .repeatCheck }
      else { w with tickCounter := 0, previousLevel := w.level, phase := .waiting }
    else { w with tickCounter := w.tickCounter + 1 }
  | .waiting =>
    if w.level ≠ w.previousLevel then
      { w with
        bitIndex := w.bitIndex - 1
        codeAccumulator :=
          if w.level = true then w.codeAccumulator ||| 1#16 <<< (w.bitIndex - 1).toNat
          else w.codeAccumulator
        tickCounter := 0
        phase := .delaying }
    else if p.timeoutThreshold < w.tickCounter + 1 then
      { w with tickCounter := 0, codeAccumulator := 0, bitIndex := p.bitCount, phase := .standby }
    else { w with tickCounter := w.tickCounter + 1 }
  | .repeatCheck => wideFinish (wideDeliver (wideCompare w))

/-- The listing's post-step. -/
def widePostStep (p : Params) (w : WideState) : WideState :=
  if w.repeatTimer < p.repeatCeiling then { w with repeatTimer := w.repeatTimer + 1 }
  else { w with repeatState := .none }

/-- The lines after the compare step, in each of its branches. -/
theorem widePostStep_compare (p : Params) (w : WideState) :
    widePostStep p (wideFinish (wideDeliver (wideCompare w))) =
      if w.repeatState ≠ .none then
        if w.codeAccumulator = w.codeBuffer then
          widePostStep p
            (wideFinish (wideDeliver { w with repeatTimer := 0, repeatState := .confirmed }))
        else widePostStep p (wideFinish (wideDeliver { w with repeatState := .none }))
      else widePostStep p (wideFinish (wideDeliver w)) := by
  unfold wideCompare
  split_ifs <;> rfl

/-- The lines after the deliver step, in each of its branches. -/
theorem widePostStep_deliver (p : Params) (w : WideState) :
    widePostStep p (wideFinish (wideDeliver w)) =
      if w.repeatState = .none ∧ w.newDataAvailable = false then
        widePostStep p (wideFinish { w with
          codeBuffer := w.codeAccumulator, repeatTimer := 0, repeatState := .provisional
          newDataAvailable := true })
      else widePostStep p (wideFinish w) :=
  apply_ite (fun w => widePostStep p (wideFinish w)) _ _ _

/-- The listing is its sample, the arm of the phase at entry, and its post-step (R100). -/
theorem wideTick_eq (p : Params) (l : Bool) (w : WideState) :
    wideTick p l w = widePostStep p (wideArm p w.phase { w with level := l }) := by
  obtain ⟨ph, lv, pl, acc, buf, nda, rs, timer, count, index⟩ := w
  cases ph with
  | standby => exact (apply_ite (widePostStep p) _ _ _).symm
  | delaying =>
    simp only [wideArm, apply_ite (widePostStep p)]
    rfl
  | waiting =>
    simp only [wideTick, wideArm, widePostStep]
    split_ifs <;> rfl
  | repeatCheck =>
    rw [wideArm, widePostStep_compare, widePostStep_deliver, widePostStep_deliver,
      widePostStep_deliver]
    rfl

/-! ### Each part is the machine's -/

theorem widen_ticked (d : DecoderState) : widen (ticked d) = widePostStep Config.params (widen d) := by
  unfold widePostStep
  by_cases h : d.repeatTimer.toNat < 500
  · have htimer : (timerAfter d).toNat = d.repeatTimer.toNat + 1 := by
      rw [timerAfter_toNat (by omega)]
      omega
    rw [if_pos (show (widen d).repeatTimer < Config.params.repeatCeiling from h)]
    simp [widen, windowAfter, htimer, h]
  · rw [if_neg (show ¬ (widen d).repeatTimer < Config.params.repeatCeiling from h)]
    simp [widen, windowAfter, timerAfter, h]

theorem widen_compareStep (d : DecoderState) : widen (compareStep d) = wideCompare (widen d) := by
  unfold wideCompare
  rcases compareStep_cases d with ⟨h, e⟩ | ⟨h, heq, e⟩ | ⟨h, heq, e⟩ <;> rw [e]
  · exact (if_neg (not_not.mpr h)).symm
  · exact ((if_pos h).trans (if_pos heq)).symm
  · exact ((if_pos h).trans (if_neg heq)).symm

theorem widen_deliverStep (d : DecoderState) : widen (deliverStep d) = wideDeliver (widen d) := by
  unfold wideDeliver
  rcases deliverStep_cases d with ⟨hs, hf, e⟩ | ⟨h, e⟩ <;> rw [e]
  · exact (if_pos ⟨hs, hf⟩).symm
  · exact (if_neg h).symm

/-- A counted tick below 255 is counted the same without bound. -/
theorem widen_count {d : DecoderState} (h : d.tickCounter.toNat < 255) :
    widen { d with tickCounter := d.tickCounter + 1 } =
      { widen d with tickCounter := (widen d).tickCounter + 1 } := by
  simp only [widen, tickCounter_toNat_succ rfl h]

/-- In the range of R39 the decremented `bitIndex` and its bit are those of the unbounded one (R118). -/
theorem widen_changeBranch {d : DecoderState} (h1 : 1 ≤ d.bitIndex.toNat)
    (h13 : d.bitIndex.toNat ≤ 13) :
    widen (changeBranch d) =
      { widen d with
        bitIndex := (widen d).bitIndex - 1
        codeAccumulator :=
          if d.level = true then d.codeAccumulator ||| 1#16 <<< ((widen d).bitIndex - 1).toNat
          else d.codeAccumulator
        tickCounter := 0
        phase := .delaying } := by
  have hnat := decrementIndex_toNat h1 h13
  have hint : (decrementIndex d.bitIndex).toInt = d.bitIndex.toInt - 1 := by
    rw [BitVec.toInt_eq_toNat_of_lt (by omega), BitVec.toInt_eq_toNat_of_lt (by omega), hnat]
    omega
  have hpos : (decrementIndex d.bitIndex).toNat = (d.bitIndex.toInt - 1).toNat := by
    rw [← hint, BitVec.toInt_eq_toNat_of_lt (by omega), Int.toNat_natCast]
  have hbit : bitAt (decrementIndex d.bitIndex) = 1#16 <<< (d.bitIndex.toInt - 1).toNat := by
    rw [bitAt, if_pos (by omega), hpos]
  simp [widen, changeBranch, hint, hbit]

/-- On the records of R35 to R39 each arm is the listing's. -/
theorem widen_arm {d : DecoderState} (h : d.Inv) :
    widen (arm Config.params d.phase d) = wideArm Config.params d.phase (widen d) := by
  cases hp : d.phase with
  | standby =>
    rcases standbyArm_cases d with ⟨hl, e⟩ | ⟨hl, e⟩ <;> simp only [arm, e, wideArm]
    · exact (if_pos hl).symm
    · exact (if_neg (ne_true_of_eq_false hl)).symm
  | delaying =>
    rcases delayingArm_cases Config.params d with ⟨hc, e⟩ | ⟨hc, hb, e⟩ | ⟨hc, hb, e⟩ <;>
      simp only [arm, e, wideArm]
    · exact (widen_count (by rw [Config.params_delayThreshold] at hc; omega)).trans
        (if_neg (Nat.not_lt.mpr hc)).symm
    · exact ((if_pos hc).trans (if_pos hb)).symm
    · exact ((if_pos hc).trans (if_neg (Int.not_lt.mpr hb))).symm
  | waiting =>
    obtain ⟨-, hleft, -⟩ := h.waiting hp
    rcases waitingArm_cases Config.params d with ⟨hl, e⟩ | ⟨hl, hc, e⟩ | ⟨hl, hc, e⟩ <;>
      simp only [arm, e, wideArm]
    · exact (widen_changeBranch hleft h.index_range).trans (if_pos hl).symm
    · exact (widen_count (by rw [Config.params_timeoutThreshold] at hc; omega)).trans
        ((if_neg (not_not.mpr hl)).trans (if_neg (Nat.not_lt.mpr hc))).symm
    · exact ((if_neg (not_not.mpr hl)).trans (if_pos hc)).symm
  | repeatCheck =>
    rw [wideArm, ← widen_compareStep, ← widen_deliverStep]
    rfl

/-- On the records of R35 to R39 `TICK` is the listing's (R118). -/
theorem widen_tick {d : DecoderState} (h : d.Inv) (l : Bool) :
    widen (tick Config.params l d) = wideTick Config.params l (widen d) := by
  rw [tick_params, widen_ticked, wideTick_eq]
  exact congrArg _ (widen_arm (sample_inv h l))

end Sys2Proof.Machine
end

section
/-! SUPPORT. The software variant's query that found the flag clear (R145): its two micro-steps, with a
tick between them. -/

namespace Sys2Proof.Machine

/-- Of a query that found the flag clear, with a tick between `q1` and `q4`, the consumer learns what the
tick left in `repeatState` (R145). -/
theorem consumer_of_tick_before_q4 {d : DecoderState} (h : d.newDataAvailable = false)
    (order : ReadOrder) (l : Bool) :
    (runShared softwareParams [.micro order, .tick l, .micro order] ⟨d, .idle⟩).consumer =
      .returned (if (tick Config.params l d).repeatState = .confirmed then .repeated else .noData) := by
  rw [runShared_cons, sharedStep_micro, microStep_of_betweenQueries (.inl rfl), h]
  rfl

end Sys2Proof.Machine
end

section
/-! The statements about the tick state machine (spec/40_tick_fsm.md), settled. -/

namespace Sys2Proof.Proofs

open Sys2Proof.Machine Sys2Proof.Claims

/-- Settles O14, by the tick in Delaying. -/
theorem delayingTickCountsThenLeaves : Obligations.DelayingTickCountsThenLeaves := by
  intro l i s hs hp _ hi
  rw [exec_tickOperation hs hp hi, tick_delaying hp]
  rfl

/-- Settles O15: the change branch, whose new `bitIndex` is the decrement and whose capture gains one bit. -/
theorem waitingChangeWritesOneBit : Obligations.WaitingChangeWritesOneBit := by
  intro l i s hs hp hi hl
  refine ⟨_, _, by rw [exec_tickOperation hs hp hi, tick_waiting_change hp hl]; rfl, ?_, fun h1 h13 =>
    ⟨decrementIndex_toNat h1 h13, changeBranch_getLsbD (d := sample l s.dec) h1 h13⟩⟩
  rintro rfl
  rfl

/-- Settles O16, by the tick in Waiting at the recorded level. -/
theorem waitingTickCountsThenAborts : Obligations.WaitingTickCountsThenAborts := by
  intro l i s hs hp _ hi hl
  rw [exec_tickOperation hs hp hi, tick_waiting_same hp hl]
  rfl

/-- Settles O17: one outcome for each case of the compare and deliver steps. -/
theorem repeatCheckTickOutcomes : Obligations.RepeatCheckTickOutcomes := by
  intro l i s hs hp hi
  rw [exec_tickOperation hs hp hi]
  exact ⟨fun h => by rw [tick_repeatCheck_confirms hp h]; rfl,
    fun h hread => by rw [tick_repeatCheck_delivers hp h hread]; rfl,
    fun h hunread => by rw [tick_repeatCheck_discards hp h hunread]; rfl⟩

/-- Settles O30: three ticks that count and one that records. -/
theorem delayingStayIsFourTicks : Obligations.DelayingStayIsFourTicks := by
  intro a b c l s hs hp hcount hleft
  obtain ⟨-, h⟩ := leads_delaying_three a b c s.dec (captureAt_of_fields hp hcount)
  have hindex := BitVec.eq_of_toNat_eq h.left
  refine ⟨_, _, execAll_tickOps hs a [b, c],
    exec_tick_of_initialised (s := s.afterEdge _ .noData) hs l, h.phase,
    BitVec.eq_of_toNat_eq h.count, ?_⟩
  rw [State.afterEdge_dec, State.afterEdge_dec, tick_delaying_record h (by rwa [hindex])]
  exact ⟨rfl, rfl, rfl, hindex, h.word⟩

/-- Settles O31: at most two ticks that count, then the change or the abort; no tick finds RepeatCheck. -/
theorem waitingStayIsAtMostThreeTicks : Obligations.WaitingStayIsAtMostThreeTicks := by
  intro b s hs hp hcount hb
  have hstart := captureAt_of_fields hp hcount
  rw [hb] at hstart
  constructor
  · intro k hk
    obtain ⟨t, hrun, ⟨hphase, hcounter⟩, hkept⟩ := execAll_tickOps_of_leads hs
      ((leads_waiting_replicate hk).append leads_waiting_complement) hstart
    exact ⟨t, hrun, hphase, hcounter, hkept⟩
  · obtain ⟨t, hrun, hend, hkept⟩ := execAll_tickOps_of_leads hs
      ((leads_waiting_replicate (k := 2) (by decide)).append leads_waiting_abort) hstart
    exact ⟨t, hrun, hend.phase, hend.tickCounter_eq_zero, hend.word, BitVec.eq_of_toNat_eq hend.left,
      hkept⟩

/-- Settles O36: the cycle of eight ticks, in which no tick finds RepeatCheck. -/
theorem stuckHighLineDeliversNothing : Obligations.StuckHighLineDeliversNothing := by
  intro n
  obtain ⟨t, hrun, hend, hflag, hbuf⟩ := execAll_tickOps_of_leads (s := State.reset) rfl
    (leads_stuckHigh_replicate n) (.standby ⟨rfl, rfl, rfl, rfl, rfl⟩)
  exact ⟨t, hrun, hflag, hbuf, hend.word, hend.phase⟩

/-- Settles O37, part by part of the listing. -/
theorem tickMatchesReferenceListing : Obligations.TickMatchesReferenceListing :=
  fun l _ hs hinv => ⟨_, exec_tick_of_initialised hs l, widen_tick hinv l⟩

/-- Settles O43: the tick delivers, so it leaves `repeatState` Provisional for `q4`, Confirmed for a query
before it, and the flag set for a query after it. -/
theorem tickBeforeQ4MatchesNoAtomicOrder : Obligations.TickBeforeQ4MatchesNoAtomicOrder := by
  intro order l d hread hconfirmed hp hne
  have hdelivers := tick_repeatCheck_delivers hp (fun heq => hne heq.2) hread l
  refine ⟨?_, ?_, ?_⟩
  · rw [consumer_of_tick_before_q4 hread, hdelivers]
    rfl
  · rw [runShared_cons, sharedStep_micro, microStep_of_atomic Config.params_queryAtomic,
      queryResult_params, queryAnswer_of_read hread, if_pos hconfirmed]
    rfl
  · rw [runShared_cons, sharedStep_tick, hdelivers]
    rfl

/-- Settles O10: the sample and the post-step around the arm. -/
theorem tickSamplesThenArmThenPostStep : Obligations.TickSamplesThenArmThenPostStep := by
  refine fun l => ⟨by revert l; decide, fun s hs => ?_⟩
  rw [exec_tick_of_initialised hs, tick_params]
  rfl

/-- Settles O11, by the phase at entry. -/
theorem tickIsTheArmOfThePhaseAtEntry : Obligations.TickIsTheArmOfThePhaseAtEntry :=
  fun l s => (exec_armOf s l).symm

/-- Settles O13, by the tick in Standby. -/
theorem standbyTickTestsTheLevel : Obligations.StandbyTickTestsTheLevel := by
  intro l i s hs hp hi
  rw [exec_tickOperation hs hp hi, tick_standby hp]
  rfl

end Sys2Proof.Proofs
end

section
/-! SUPPORT. Ticks inside a query of the software variant that found the flag set (spec/41_query_accessor.md
R145, R147): between `q1` and the two steps after it, and between those two. -/

namespace Sys2Proof.Machine

open Sys2Proof.Claims

/-- A level string as events is its ticks; the consumer is left where it stands (R56, R145). -/
theorem runShared_ticks (p : Config.Params) (ls : List Bool) (d : DecoderState) (c : Consumer) :
    runShared p (ls.map .tick) ⟨d, c⟩ = ⟨ticks p ls d, c⟩ := by
  induction ls generalizing d with
  | nil => rfl
  | cons l ls ih => exact ih (tick p l d)

/-- The ticks of the software variant are the hardware's, for a whole level string. -/
theorem ticks_softwareParams (ls : List Bool) (d : DecoderState) :
    ticks softwareParams ls d = ticks Config.params ls d := rfl

/-- No level string takes down a set flag (R26), by induction on the ticks. -/
theorem ticks_keep_flag_set {d : DecoderState} (h : d.newDataAvailable = true) (ls : List Bool) :
    (ticks Config.params ls d).newDataAvailable = true := by
  induction ls generalizing d with
  | nil => exact h
  | cons l ls ih =>
    obtain ⟨hflag, -⟩ := tick_keeps_unread_code h l
    exact ih hflag

section UnreadCode
variable {d : DecoderState} (h : d.newDataAvailable = true)
include h

/-- The three micro-steps of a query on an unread code, with nothing between them (R145). -/
theorem runShared_three_microSteps {c : Consumer} (hc : c.BetweenQueries) (order : ReadOrder) :
    runShared softwareParams [.micro order, .micro order, .micro order] ⟨d, c⟩ =
      ⟨queryEffect d, .returned (.code (d.codeBuffer &&& 0x07FF))⟩ := by
  rw [← queryMicroSteps_of_unread h, runShared_queryMicroSteps hc, queryAnswer_of_unread h]

/-- Ticks between `q1` and the two steps after it: the buffer is read, and the flag cleared, on the record
that the ticks leave (R145). -/
theorem runShared_ticks_after_q1 (order : ReadOrder) (ls : List Bool) :
    runShared softwareParams ([.micro order] ++ ls.map .tick ++ [.micro order, .micro order])
        ⟨d, .idle⟩ =
      ⟨queryEffect (ticks Config.params ls d),
        .returned (.code ((ticks Config.params ls d).codeBuffer &&& 0x07FF))⟩ := by
  have hq1 : microStep softwareParams order ⟨d, .idle⟩ = ⟨d, .sawFlag true⟩ := by
    rw [microStep_of_betweenQueries (.inl rfl), h]
  simp only [runShared_append, runShared_cons, runShared_nil, sharedStep_micro, hq1, runShared_ticks,
    ticks_softwareParams, microStep_microStep_of_sawSet]

/-- A tick between `q2` and `q3`: the tick finds the flag clear, and the buffer it leaves is read (R145). -/
theorem runShared_tick_before_q3 (l : Bool) :
    runShared softwareParams
        [.micro .clearFirst, .micro .clearFirst, .tick l, .micro .clearFirst] ⟨d, .idle⟩ =
      ⟨tick Config.params l (queryEffect d),
        .returned (.code ((tick Config.params l (queryEffect d)).codeBuffer &&& 0x07FF))⟩ := by
  rw [runShared_cons, sharedStep_micro, microStep_of_betweenQueries (.inl rfl), h, queryEffect_eq]
  rfl

/-- A tick between `q3` and `q2`: the buffer is read before the tick, which finds the flag still set
(R145). -/
theorem runShared_tick_before_q2 (l : Bool) :
    runShared softwareParams
        [.micro .readFirst, .micro .readFirst, .tick l, .micro .readFirst] ⟨d, .idle⟩ =
      ⟨queryEffect (tick Config.params l d), .returned (.code (d.codeBuffer &&& 0x07FF))⟩ := by
  rw [runShared_cons, sharedStep_micro, microStep_of_betweenQueries (.inl rfl), h, queryEffect_eq]
  rfl

end UnreadCode

/-- A query takes the flag down, so the RepeatCheck tick after it delivers a capture that no open window
holds (R113, R144). -/
theorem tick_queryEffect_delivers {d : DecoderState} (hp : d.phase = .repeatCheck)
    (hne : ¬ equalInWindow d) (l : Bool) :
    (tick Config.params l (queryEffect d)).codeBuffer = d.codeAccumulator ∧
      (tick Config.params l (queryEffect d)).newDataAvailable = true := by
  rw [queryEffect_eq,
    tick_repeatCheck_delivers (d := { d with newDataAvailable := false }) hp hne rfl]
  exact ⟨rfl, rfl⟩

end Sys2Proof.Machine
end

section
/-! The statements about the query accessor (spec/41_query_accessor.md), settled. -/

namespace Sys2Proof.Proofs

open Sys2Proof.Machine Sys2Proof.Claims

/-- Settles O40: the tick after the clear delivers, so this query reads the new code and the next one finds
it unread. -/
theorem tickBetweenClearAndReadRepeatsNewCode :
    Obligations.TickBetweenClearAndReadRepeatsNewCode := by
  intro l d hunread hp hne
  obtain ⟨hbuf, hflag⟩ := tick_queryEffect_delivers hp hne l
  refine ⟨_, runShared_tick_before_q3 hunread l, by rw [hbuf], hbuf, hflag, fun order => ?_⟩
  rw [runShared_three_microSteps hflag (.inr ⟨_, rfl⟩), hbuf]

/-- Settles O41: the tick before the clear finds the old code unread and leaves it; the tick after an atomic
query delivers. -/
theorem tickBetweenReadAndClearLosesCapture : Obligations.TickBetweenReadAndClearLosesCapture := by
  intro l d hunread hp hne
  obtain ⟨-, hkept⟩ := tick_keeps_unread_code hunread l
  have hatomic : runShared Config.params [.micro .readFirst, .tick l] ⟨d, .idle⟩ =
      ⟨tick Config.params l (queryEffect d), .returned (.code (d.codeBuffer &&& 0x07FF))⟩ := by
    rw [runShared_cons, sharedStep_micro, microStep_of_atomic Config.params_queryAtomic,
      queryResult_params, queryAnswer_of_unread hunread]
    rfl
  exact ⟨_, runShared_tick_before_q2 hunread l, rfl, by rw [queryEffect_eq, hkept],
    queryEffect_newDataAvailable _, _, hatomic, rfl, tick_queryEffect_delivers hp hne l⟩

/-- Settles O42: the ticks leave the flag set, so the atomic query after them returns the buffer too. -/
theorem ticksBeforeClearAreAnAtomicOrder : Obligations.TicksBeforeClearAreAnAtomicOrder := by
  intro order ls d hunread
  have hflag := ticks_keep_flag_set hunread ls
  rw [runShared_ticks_after_q1 hunread, runShared_append, runShared_ticks, runShared_cons,
    runShared_nil, sharedStep_micro, microStep_of_atomic Config.params_queryAtomic,
    queryResult_params, queryAnswer_of_unread hflag]

/-- Settles O18: the branch by the flag, then by `repeatState`. -/
theorem queryReportsAndConsumes : Obligations.QueryReportsAndConsumes := by
  refine ⟨by decide, fun s hs => ?_⟩
  rw [exec_query_of_initialised hs]
  refine ⟨fun hunread => ?_, fun hread hconfirmed => ?_, fun hread hother => ?_⟩
  · rw [queryAnswer_of_unread hunread, queryEffect_eq]
    rfl
  · rw [queryAnswer_of_read hread, if_pos hconfirmed, queryEffect_of_read hread]
    rfl
  · rw [queryAnswer_of_read hread, if_neg hother, queryEffect_of_read hread]
    rfl

end Sys2Proof.Proofs
end

section
/-! SUPPORT. `INIT`, `NOP` and `QUERY+TICK` as whole operations (spec/42_init_nop_combined.md R150 to R152),
and runs from states that differ only in the result the ports showed. -/

namespace Sys2Proof.Machine

open Sys2Proof.Claims

/-- `INIT` runs in every state: it leaves the record of reset and marks the block initialised (R150, R180). -/
theorem exec_init (s : State) :
    exec .init s = .next { s.afterEdge DecoderState.reset .noData with initialised := true } := by
  rw [← initFields_eq_reset]
  rfl

/-- `NOP` runs in every state and moves only the output ports (R76, R151). -/
theorem exec_nop (s : State) : exec .nop s = .next { s with result := .noData } := rfl

/-- An initialised block runs `QUERY+TICK`: the tick on the record the query leaves, shown with the answer
from the record before the edge (R152). -/
theorem exec_queryTick_of_initialised {s : State} (h : s.initialised = true) (l : Bool) :
    exec (.queryTick l) s =
      .next (s.afterEdge (tick Config.params l (queryEffect s.dec)) (queryAnswer s.dec)) := by
  rw [← queryResult_params]
  exact afterInit_of_initialised h _

/-- No operation reads what the ports showed at the edge before; each writes it anew (R76). -/
theorem exec_setResult (i : Instr) (s : State) (r : QueryResult) :
    exec i { s with result := r } = exec i s := by
  cases i <;> rfl

/-- A run that performs an operation does not depend on what the ports showed before it. -/
theorem execAll_cons_setResult (i : Instr) (is : List Instr) (s : State) (r : QueryResult) :
    execAll (i :: is) { s with result := r } = execAll (i :: is) s := by
  simp only [execAll, exec_setResult]

/-- Any number of `NOP`s before an operation leaves the whole run from it on as it was (R151), by induction
on the number: each one changes only what the ports show. -/
theorem execAll_replicate_nop_append (n : Nat) (i : Instr) (is : List Instr) (s : State) :
    execAll (List.replicate n .nop ++ i :: is) s = execAll (i :: is) s := by
  induction n generalizing s with
  | zero => rfl
  | succ n ih =>
    calc execAll (List.replicate (n + 1) .nop ++ i :: is) s
        = execAll (List.replicate n .nop ++ i :: is) { s with result := .noData } := by
          rw [List.replicate_succ, List.cons_append, execAll, exec_nop]
      _ = execAll (i :: is) { s with result := .noData } := ih _
      _ = execAll (i :: is) s := execAll_cons_setResult i is s _

end Sys2Proof.Machine
end

section
/-! The statements about `INIT`, `NOP` and `QUERY+TICK` (spec/42_init_nop_combined.md), settled. -/

namespace Sys2Proof.Proofs

open Sys2Proof.Machine Sys2Proof.Claims

/-- Settles O9: a `NOP` moves only the ports, which no operation reads. -/
theorem nopChangesNoField : Obligations.NopChangesNoField :=
  ⟨exec_nop, by decide, fun n i s => execAll_replicate_nop_append n i [] s⟩

/-- Settles O6: the ten writes are the record of reset, and `rst` is looked at first. -/
theorem initWritesEveryField : Obligations.InitWritesEveryField :=
  ⟨exec_init, by decide⟩

/-- Settles O19: `QUERY` leaves the block initialised, so the tick after it runs, on the record it leaves. -/
theorem queryTickIsQueryThenTick : Obligations.QueryTickIsQueryThenTick := by
  refine fun l => ⟨by revert l; decide, fun s hs => ?_⟩
  have hquery := exec_query_of_initialised hs
  have htick := exec_tick_of_initialised
    (s := s.afterEdge (queryEffect s.dec) (queryAnswer s.dec)) hs l
  exact ⟨_, _, hquery, htick, exec_queryTick_of_initialised hs l⟩

end Sys2Proof.Proofs
end

section
/-! SUPPORT. Completion of an operation in its one edge (spec/60_exceptions.md R160): which operations an edge
can present, that an initialised block completes each of them, and what of the state no operation touches. -/

namespace Sys2Proof

/-- Every word at the ports selects an operation that can be presented in any phase (R72, R81). -/
theorem wellFormedIn_decodeStim (w : Stim) (ph : Phase) : (decodeStim w).wellFormedIn ph = true := by
  rw [decodeStim_eq]
  split_ifs <;> rfl

end Sys2Proof

namespace Sys2Proof.Machine

/-- An initialised block completes every operation that can be presented in the phase held: a sub-operation
of `TICK` finds its own phase, and nothing else stops any of them (R74, R160, R181). -/
theorem exists_exec_eq_next {i : Instr} {s : State} (hs : s.initialised = true)
    (hi : i.wellFormedIn s.dec.phase = true) : ∃ t, exec i s = .next t := by
  cases i with
  | init => exact ⟨_, exec_init s⟩
  | nop => exact ⟨_, exec_nop s⟩
  | tick l => exact ⟨_, exec_tick_of_initialised hs l⟩
  | tickStandby l => exact ⟨_, exec_tickOperation (ph := .standby) hs (eq_of_beq hi) (.inr rfl)⟩
  | tickDelaying l => exact ⟨_, exec_tickOperation (ph := .delaying) hs (eq_of_beq hi) (.inr rfl)⟩
  | tickWaiting l => exact ⟨_, exec_tickOperation (ph := .waiting) hs (eq_of_beq hi) (.inr rfl)⟩
  | tickRepeatCheck l => exact ⟨_, exec_tickOperation (ph := .repeatCheck) hs (eq_of_beq hi) (.inr rfl)⟩
  | query => exact ⟨_, exec_query_of_initialised hs⟩
  | queryTick l => exact ⟨_, exec_queryTick_of_initialised hs l⟩

/-- No operation undoes the first `INIT`, and none touches the placed words or the edge count (logs 1 and 3). -/
theorem exec_frame {i : Instr} {s t : State} (hs : s.initialised = true) (h : exec i s = .next t) :
    t.initialised = true ∧ t.pending = s.pending ∧ t.edge = s.edge := by
  rcases exec_next_cases h with ⟨-, rfl⟩ | ⟨-, rfl⟩ | ⟨-, -, rfl⟩ | ⟨l, -, -, rfl⟩ | ⟨l, -, -, rfl⟩
  · exact ⟨rfl, rfl, rfl⟩
  all_goals exact ⟨hs, rfl, rfl⟩

/-- Completion and frame together (R160). -/
theorem exec_completes {i : Instr} {s : State} (hs : s.initialised = true)
    (hi : i.wellFormedIn s.dec.phase = true) :
    ∃ t, exec i s = .next t ∧ t.initialised = true ∧ t.pending = s.pending ∧ t.edge = s.edge := by
  obtain ⟨t, ht⟩ := exists_exec_eq_next hs hi
  exact ⟨t, ht, exec_frame hs ht⟩

end Sys2Proof.Machine
end

section
/-! The statement about faults and completion (spec/60_exceptions.md), settled. -/

namespace Sys2Proof.Proofs

open Sys2Proof.Machine

/-- Settles O25: an edge is an operation that can be presented in any phase, on the state from which the word
at the ports is gone. -/
theorem everyOperationCompletes : Obligations.EveryOperationCompletes :=
  ⟨fun _ _ => exec_completes, fun s hs =>
    exec_completes (s := passEdge s) hs (wellFormedIn_decodeStim (stimulus s) s.dec.phase)⟩

end Sys2Proof.Proofs
end

section
/-! SUPPORT. The power-on guard (spec/70_reset_and_hazards.md R181, log 3): every form of `TICK` and of
`QUERY` stands behind `afterInit`. -/

namespace Sys2Proof.Machine

/-- A form of `TICK` or of `QUERY` does whatever it does behind `afterInit`: a sub-operation of `TICK`
compares its phase there too (R74, R181). -/
theorem exec_eq_afterInit {i : Instr} (hi : i.performsTick = true ∨ i.performsQuery = true) (s : State) :
    ∃ k, exec i s = afterInit s k := by
  cases i with
  | init | nop => simp [Instr.performsTick, Instr.performsQuery] at hi
  | tick | tickStandby | tickDelaying | tickWaiting | tickRepeatCheck | query | queryTick => exact ⟨_, rfl⟩

/-- Before the first `INIT` no form of `TICK` or of `QUERY` runs, whatever the record holds (R181, log 3). -/
theorem exec_of_not_initialised {i : Instr} {s : State} (hs : s.initialised = false)
    (hi : i.performsTick = true ∨ i.performsQuery = true) : exec i s = .refused .beforeInit := by
  obtain ⟨k, hk⟩ := exec_eq_afterInit hi s
  exact hk.trans (afterInit_of_not_initialised hs k)

end Sys2Proof.Machine
end

section
/-! The statement about power-on (spec/70_reset_and_hazards.md R181), settled. -/

namespace Sys2Proof.Proofs

open Sys2Proof.Machine

/-- Settles O8: the guard stops every form of `TICK` and of `QUERY`, and neither `NOP` nor `INIT` stands
behind it. -/
theorem tickAndQueryRefusedBeforeInit : Obligations.TickAndQueryRefusedBeforeInit :=
  ⟨rfl, fun s hs => ⟨fun _ => exec_of_not_initialised hs, exec_nop s, _, exec_init s, rfl, rfl⟩⟩

end Sys2Proof.Proofs
end
